-- ==== Sys2Proof/Word.lean ====
section
/-! DEFINITION. The word types of the block: registers and descriptor words are 32 bits wide
(00_scope.md R14), a byte of BUF, an IQ byte and a soft bit are 8 bits wide (R16). -/

namespace Sys2Proof

/-- A byte of BUF, of the IQ stream or of a packed bit stream. -/
abbrev Byte := BitVec 8

/-- A 32-bit register, descriptor word or record word (00_scope.md R14). -/
abbrev Word := BitVec 32

/-- A soft bit, an `i8` in two's complement (00_scope.md R16): read it with `BitVec.toInt`. -/
abbrev SoftBit := BitVec 8

/-- An 18-bit BUF offset (30_encoding.md R141). -/
abbrev BufOffset := BitVec 18

/-- A 20-bit byte address of the host window (20_memory.md R100). -/
abbrev HostAddr := BitVec 20

end Sys2Proof
end

