-- ==== Sys2Proof/Machine/Binary32.lean ====
section
/-! DEFINITION. Rounding to IEEE-754 binary32: `bits32` of 40_sync_ofdm.md R203, on rational numbers. -/

namespace Sys2Proof.Machine

/-- The integer nearest to `n / d`, the even one of two (40_sync_ofdm.md R203: ties to even). -/
def roundHalfEven (n d : Nat) : Nat :=
  let q := n / d
  let twice := 2 * (n % d)
  if twice < d ∨ (twice = d ∧ q % 2 = 0) then q else q + 1

/-- The step of the binary32 numbers about `n / d`, as the exponent of two over the least step `2^−149`: 0
below `2^−125`, and one more for each further doubling. -/
def binary32Step (n d : Nat) : Nat := (n * 2 ^ 149 / d).log2 - 23

/-- The exponent and fraction fields of the binary32 nearest to `n / d`. A significand that rounds up to
`2^24` carries into the exponent; a number too large is infinity (PRESUMED, log 4). -/
def binary32Magnitude (n d : Nat) : Nat :=
  let k := binary32Step n d
  min 0x7F800000 (k * 2 ^ 23 + roundHalfEven (n * 2 ^ 149) (d * 2 ^ k))

/-- `bits32` of `m / d`: the nearest binary32, ties to even (40_sync_ofdm.md R203). A negative number that
rounds to 0 keeps its sign (PRESUMED, log 4). -/
def bits32 (m : Int) (d : Nat) : Word :=
  BitVec.ofBool (m < 0) ++ BitVec.ofNat 31 (binary32Magnitude m.natAbs d)

/-- The significand of a binary32 and its step over `2^−149`: its magnitude is `m · 2^k / 2^149` (20_memory.md
R106). -/
def binary32Parts (w : Word) : Nat × Nat :=
  let e := (w.extractLsb' 23 8).toNat
  let f := (w.extractLsb' 0 23).toNat
  if e = 0 then (f, 0) else (f + 2 ^ 23, e - 1)

/-- The word is no number: a NaN or an infinity. -/
def binary32Special (w : Word) : Bool := w.extractLsb' 23 8 == 0xFF#8

/-- The value of a binary32 that is a number, over the denominator `2^149` (20_memory.md R106). -/
def binary32Numerator (w : Word) : Int :=
  let p := binary32Parts w
  if w.msb then -((p.1 * 2 ^ p.2 : Nat) : Int) else ((p.1 * 2 ^ p.2 : Nat) : Int)

end Sys2Proof.Machine
end

