-- ==== Sys2Proof/Config.lean ====
section
/-! DEFINITION. What an implementation or the outside world fixes: the Mode I constants, the OPEN
parameters of 00_scope.md R13, the arithmetic `DSP` of R20, the schedule of the agents, and the free
values. An `opaque` constant has no body: nothing can be proved about its value. -/

namespace Sys2Proof

/-! ## Mode I constants (00_scope.md R10–R12) -/

/-- Useful symbol length and FFT size (R10). -/
def Tu : Nat := 2048
/-- Symbol length with guard (R10). -/
def Ts : Nat := 2552
/-- Guard length (R11). -/
def Tg : Nat := Ts - Tu
/-- Null symbol length (R10). -/
def Tnull : Nat := 2656
/-- OFDM symbols per frame, the null symbol excluded (R10). -/
def symbolsPerFrame : Nat := 76
/-- Frame length in samples (R11). -/
def frameSamples : Nat := Tnull + symbolsPerFrame * Ts
/-- Active carriers (R10). -/
def carriers : Nat := 1536
/-- Sample rate in Hz (R10). -/
def sampleRate : Nat := 2048000
/-- Carrier spacing in Hz (R11). -/
def carrierSpacing : Nat := 1000
/-- Depth of the time de-interleaver (R12). -/
def interleaverDepth : Nat := 16
/-- CIF periods of a super-frame (R12). -/
def cifsPerSuperFrame : Nat := 5
/-- Envelope window length (R13). -/
def envWin : Nat := 50
/-- Per-phase timeout of the synchronizer, in samples (R13). -/
def syncTimeout : Nat := frameSamples
/-- Size of BUF in bytes (R13, 20_memory.md R100). -/
def bufBytes : Nat := 262144
/-- Depth of the command queue (R13). -/
def cmdqDepth : Nat := 4

/-! ## Numbers of the numeric units (00_scope.md R18–R20)

A numeric rule is stated over the reals and computed in the arithmetic `DSP`, which the spec leaves
open. DESIGN CHOICE (log 4): a number of `DSP` is a piece of data whose operations are
uninterpreted. -/

/-- A number as the arithmetic `DSP` holds it (DESIGN CHOICE, log 4). `dyadic m e` is `m / 2^e` exactly,
`ratio p q` is `p / q` exactly, `single w` the value of the IEEE-754 binary32 word `w` (a NaN or an infinity
included), `other n` any further real number, under a code whose choice is the arithmetic's. -/
inductive Num where
  | dyadic (m : Int) (e : Nat)
  | ratio (p q : Nat)
  | single (w : BitVec 32)
  | other (code : Nat)
deriving DecidableEq, Repr, Inhabited

/-- A complex number (00_scope.md R18). -/
structure Cx (α : Type) where
  re : α
  im : α
deriving DecidableEq, Repr, Inhabited

/-- An arithmetic on `α`: the operations the numeric rules use, each as one operation, so that no
order of evaluation and no FFT algorithm is fixed (00_scope.md R20; 92_eei_decisions.md D40). With
`α` the reals and the operations exact, a formula written over `Arith` is the spec's formula. -/
structure Arith (α : Type) where
  /-- `m / 2^e` -/
  dyadic : Int → Nat → α
  /-- the value of an IEEE-754 binary32 word (20_memory.md R106) -/
  ofSingle : BitVec 32 → α
  /-- the nearest binary32, ties to even: `bits32` of 40_sync_ofdm.md R203; for a number stored in BUF (R250)
  this rounding is the model's choice (DESIGN CHOICE, log 4) -/
  toSingle : α → BitVec 32
  add : α → α → α
  sub : α → α → α
  mul : α → α → α
  div : α → α → α
  neg : α → α
  abs : α → α
  /-- the comparison `a ≤ b` -/
  le : α → α → Bool
  /-- the comparison `a < b` -/
  lt : α → α → Bool
  /-- the nearest integer, ties away from zero: `rnd` of 40_sync_ofdm.md R234 -/
  rnd : α → Int
  /-- the sum of a list -/
  sum : List α → α
  /-- the sum of the products of a list of pairs -/
  dot : List (Cx α × Cx α) → Cx α
  /-- `e^(j·2π·p/n)` -/
  root : Int → Nat → Cx α
  /-- `e^(j·t)` -/
  cis : α → Cx α
  /-- `|z|` (00_scope.md R18) -/
  modulus : Cx α → α
  /-- `arg z` in (−π, π] for `z ≠ 0` (00_scope.md R18) -/
  arg : Cx α → α
  /-- `2π·t` -/
  timesTwoPi : α → α
  /-- `t mod 2π`, in [0, 2π) -/
  modTwoPi : α → α

namespace Config

/-- A rational number, numerator over denominator less one, that lies so near to a number of the
arithmetic that both round to the same binary32 (log 4: a free value). -/
opaque otherNearby : Nat → Int × Nat

/-- `bits32` of a number: the nearest binary32, ties to even (40_sync_ofdm.md R203). -/
def dspToSingle : Num → BitVec 32
  | .dyadic m e => Machine.bits32 m (2 ^ e)
  | .ratio p q => Machine.bits32 p q
  | .single w => w
  | .other n => Machine.bits32 (otherNearby n).1 ((otherNearby n).2 + 1)

/-! The operations of `DSP` (00_scope.md R13, R20): uninterpreted (DESIGN CHOICE, log 4). -/

opaque dspAdd : Num → Num → Num
opaque dspSub : Num → Num → Num
opaque dspMul : Num → Num → Num
opaque dspDiv : Num → Num → Num
opaque dspNeg : Num → Num
opaque dspAbs : Num → Num
opaque dspLe : Num → Num → Bool
opaque dspLt : Num → Num → Bool
opaque dspRnd : Num → Int
opaque dspSum : List Num → Num
opaque dspDot : List (Cx Num × Cx Num) → Cx Num
opaque dspRoot : Int → Nat → Cx Num
opaque dspCis : Num → Cx Num
opaque dspModulus : Cx Num → Num
opaque dspArg : Cx Num → Num
opaque dspTimesTwoPi : Num → Num
opaque dspModTwoPi : Num → Num

/-- The parameter `DSP` of 00_scope.md R13: the arithmetic of the numeric units (DESIGN CHOICE, log 4). -/
def dsp : Arith Num where
  dyadic := Num.dyadic
  ofSingle := Num.single
  toSingle := dspToSingle
  add := dspAdd
  sub := dspSub
  mul := dspMul
  div := dspDiv
  neg := dspNeg
  abs := dspAbs
  le := dspLe
  lt := dspLt
  rnd := dspRnd
  sum := dspSum
  dot := dspDot
  root := dspRoot
  cis := dspCis
  modulus := dspModulus
  arg := dspArg
  timesTwoPi := dspTimesTwoPi
  modTwoPi := dspModTwoPi

/-! ## OPEN parameters of 00_scope.md R13 (DESIGN CHOICE, log 11)

A parameter with a lower bound is the bound plus an uninterpreted number; one in an interval is the ratio of
two such sums. -/

opaque levelAlphaPart : Nat
opaque levelAlphaRest : Nat
/-- `LEVEL_ALPHA`, the smoothing factor of the signal level: a number in (0, 1) (log 11: a rational one). -/
def levelAlpha : Num := .ratio (levelAlphaPart + 1) (levelAlphaPart + 1 + (levelAlphaRest + 1))
opaque fineGainPart : Nat
opaque fineGainRest : Nat
/-- `FINE_GAIN`, the loop gain of the fine corrector: a number in (0, 1] (log 11: a rational one). -/
def fineGain : Num := .ratio (fineGainPart + 1) (fineGainPart + 1 + fineGainRest)
opaque softScalePart : Nat
opaque softScaleOver : Nat
/-- `SOFT_SCALE`, the soft-bit scale factor: a number > 0 (log 11: a rational one). -/
def softScale : Num := .ratio (softScalePart + 1) (softScaleOver + 1)
/-- `BIN_SIZE` divides 2048, so it is a power of two up to 2^11: this is its exponent. -/
opaque binSizeLog : Fin 12
/-- `BIN_SIZE`, the FindIndex bin size in samples. -/
def binSize : Nat := 2 ^ binSizeLog.val
opaque topKExtra : Nat
/-- `TOPK` ≥ 1, the number of peak bins kept. -/
def topK : Nat := topKExtra + 1
/-- `NEAR_DIST` ≥ 0, the largest distance in samples from the global peak. -/
opaque nearDist : Nat
/-- `COARSE_RANGE` ≥ 0, the coarse search half-range in carriers. -/
opaque coarseRange : Nat
/-- `AU_OFFSETS_PER_SF`: AU start offsets are re-read from every super-frame. -/
opaque auOffsetsPerSf : Bool
opaque dabrxBaseMiB : Nat
/-- `DABRX_BASE`, the 1 MiB-aligned system address of the host window (20_memory.md R118; DESIGN CHOICE,
log 18). -/
def dabrxBase : Nat := dabrxBaseMiB * 2 ^ 20
opaque iqFifoExtra : Nat
/-- `IQ_FIFO_BYTES` ≥ 2. -/
def iqFifoBytes : Nat := iqFifoExtra + 2
opaque sampqExtra : Nat
/-- `SAMPQ_DEPTH` ≥ 1. -/
def sampqDepth : Nat := sampqExtra + 1
opaque symqExtra : Nat
/-- `SYMQ_DEPTH` ≥ 1. -/
def symqDepth : Nat := symqExtra + 1
opaque ficqExtra : Nat
/-- `FICQ_DEPTH` ≥ 1. -/
def ficqDepth : Nat := ficqExtra + 1
opaque mscqExtra : Nat
/-- `MSCQ_DEPTH` ≥ 1. -/
def mscqDepth : Nat := mscqExtra + 1
opaque sfqExtra : Nat
/-- `SFQ_DEPTH` ≥ 1. -/
def sfqDepth : Nat := sfqExtra + 1
opaque auqExtra : Nat
/-- `AUQ_BYTES`. R13 gives the bound "≥ 1 entry" though the parameter counts bytes; an entry of AUQ is a whole
record (10_state.md R60), and the smallest, an AU record with a payload of at most four bytes, takes 8 bytes
(45_superframe.md R418). That the bound is those 8 bytes is the model's reading (DESIGN CHOICE, log 11). -/
def auqBytes : Nat := auqExtra + 8

end Config

/-! ## Turns: which agent steps next, and what the host does -/

/-- The width of a host access (20_memory.md R110, R111). -/
inductive Width where
  | w8
  | w16
  | w32
deriving DecidableEq, Repr, Inhabited

/-- One host access (20_memory.md R100), at an address of the host window. -/
inductive HostAccess where
  | read (addr : HostAddr) (w : Width)
  | write (addr : HostAddr) (w : Width) (data : Word)
deriving DecidableEq, Repr, Inhabited

/-- One turn: the agent that steps next (10_state.md R33). `host` is one host access, `nosample` the step
of SYNC that time drives (40_sync_ofdm.md R229), `hardwareReset` the platform's reset input
(70_reset_and_hazards.md R510). -/
inductive Turn where
  | host (a : HostAccess)
  | acq
  | sync
  | nosample
  | demod
  | msc
  | sfa
  | cmd
  | hardwareReset
deriving DecidableEq, Repr, Inhabited

namespace Config

/-! ## Free values -/

/-- Which turn comes next when State lists none: any interleaving of the agents and any behaviour of
the host (10_state.md R33, 93_implementation_defined.md I26; DESIGN CHOICE, log 1). -/
opaque freeTurn : Nat → Turn

/-- The contents of BUF byte `a` after the `n`-th hardware reset, until written
(93_implementation_defined.md I13; DESIGN CHOICE, log 2). -/
opaque bufPowerOn : Nat → Nat → Byte

/-- In step `tick`, which of the values that a raced byte may have a command reads at an address
(20_memory.md R123, 93_implementation_defined.md I14; DEDUCED, log 3). -/
opaque racePick : Nat → Nat → Nat

/-- In step `tick`, whether a host read of an address sees what the executing command leaves there
(20_memory.md R123, 93_implementation_defined.md I14; DEDUCED, log 3). -/
opaque hostSeesNew : Nat → Nat → Bool

/-- In step `tick`, whether the write of a command to an address comes after a host write made to it while
the command executed (93_implementation_defined.md I14; DEDUCED, log 3). -/
opaque commandWritesLast : Nat → Nat → Bool

/-- What a read of a write-only register returns in step `tick`: 10_state.md R36 gives no value (DESIGN
CHOICE, log 6). -/
opaque writeOnlyRead : Nat → Word

end Config

end Sys2Proof
end

