-- ==== Sys2Proof/Syntax.lean ====
section
/-! DEFINITION. The commands of the block (30_encoding.md R143, opcode_table.json): one constructor per
row, its operands at the widths of R140 and R142. -/

namespace Sys2Proof

/-- The EEP profile (10_state.md R36: 0 = A, 1 = B). -/
inductive Profile where
  | A
  | B
deriving DecidableEq, Repr, Inhabited

/-- A command (30_encoding.md R143). `src`, `dst` and `cur` are BUF offsets (R141). -/
inductive Instr where
  /-- `NOP` (46_control.md R440) -/
  | nop
  /-- `FFT dst, src` and, with `inv`, `FFT.INV dst, src` (40_sync_ofdm.md R250) -/
  | fft (inv : Bool) (src dst : BufOffset)
  /-- `FINDIDX src` (40_sync_ofdm.md R251) -/
  | findidx (src : BufOffset)
  /-- `COARSE src` (40_sync_ofdm.md R252) -/
  | coarse (src : BufOffset)
  /-- `DDEMOD dst, prev, cur`, `src` being prev (40_sync_ofdm.md R253) -/
  | ddemod (src dst cur : BufOffset)
  /-- `VITDEC dst, src, N` (41_viterbi.md R280) -/
  | vitdec (src dst : BufOffset) (n : BitVec 20)
  /-- `DEPUNCT dst, src, A|B, level, bitrate` (42_eep_dispersal.md R305) -/
  | depunct (src dst : BufOffset) (bitrate : BitVec 11) (profile : Profile) (levelM1 : BitVec 2)
  /-- `DESCR dst, src, nbits` (42_eep_dispersal.md R312) -/
  | descr (src dst : BufOffset) (nbits : BitVec 21)
  /-- `RSDEC dst, src` (43_reed_solomon.md R350) -/
  | rsdec (src dst : BufOffset)
  /-- `SFCHK dst, src, s` (45_superframe.md R421) -/
  | sfchk (src dst : BufOffset) (cw : BitVec 8)
  /-- `FIRECRC src` (45_superframe.md R422) -/
  | firecrc (src : BufOffset)
  /-- `CRC16 src, n` (45_superframe.md R423) -/
  | crc16 (src : BufOffset) (nbytes : BitVec 19)
  /-- `INJMSC src` (46_control.md R442) -/
  | injmsc (src : BufOffset)
  /-- `INJSF src` (46_control.md R443) -/
  | injsf (src : BufOffset)
  /-- `DRAIN` (46_control.md R441) -/
  | drain
deriving DecidableEq, Repr

/-- A command descriptor: the four words W0…W3 (30_encoding.md R140). -/
structure Descriptor where
  w0 : Word
  w1 : Word
  w2 : Word
  w3 : Word
deriving DecidableEq, Repr, Inhabited

/-- What a descriptor decodes to (30_encoding.md R144): an instruction, or the name of the reason it is
none. A descriptor that is none completes with that result code (R151); it never stops the machine. -/
inductive Decoded where
  | instr (i : Instr)
  /-- `OP` is reserved: result `ILLEGAL` -/
  | illegal
  /-- a reserved bit or an unused field is nonzero: result `BAD_DESC` -/
  | badDesc
deriving DecidableEq, Repr

end Sys2Proof
end

