-- ==== Sys2Proof/Machine/State.lean ====
section
/-! DEFINITION. The state of the block as plain data: everything the spec gives the machine
(10_state.md), and the four fields of the model's own. INVENTORY.md lists every piece with its rule. -/

namespace Sys2Proof.Machine

/-! ## Names -/

/-- Why the machine stops with a fault: never. No error of the block is fatal (60_exceptions.md R470,
R471, R475): every error is an event, recorded in a next state. -/
inductive Fault where
deriving DecidableEq, Repr

/-- Why an instruction has no meaning. -/
inductive Refusal where
  /-- Raised by an arm of `exec` whose instruction has no meaning yet: no arm raises it. Safe: the model
  stops where the hardware goes on. -/
  | notModelled (mnemonic : String)
deriving DecidableEq, Repr

/-- The phases of SYNC (10_state.md R50). -/
inductive Phase where
  | idle
  | fill
  | nullSearch
  | nullExit
  | capture
  | symbols
deriving DecidableEq, Repr

/-- Which part of a symbol SYNC consumes (40_sync_ofdm.md R220). -/
inductive Part where
  | useful
  | guard
deriving DecidableEq, Repr

/-- The two states of the super-frame assembler (45_superframe.md R400). -/
inductive SfPhase where
  | accumulating
  | synced
deriving DecidableEq, Repr

/-- The result codes of a command (30_encoding.md R151). -/
inductive ResultCode where
  | ok
  | illegal
  | badDesc
  | badAddr
  | uncorrectable
  | crcMismatch
  | peakFail
  | aborted
  | noSubch
deriving DecidableEq, Repr

/-- The events (60_exceptions.md R470). -/
inductive Event where
  | frameDone
  | syncTimeout
  | peakFail
  | nosample
  | ficReady
  | ficDrop
  | cifStale
  | subchSwap
  | subchReject
  | rsCorrected
  | rsUncorr
  | fireFail
  | sfSync
  | sfLost
  | auReady
  | auCrcFail
  | auMalformed
  | auDrop
  | format
  | cmdDone
  | cmdErr
  | cmdQfull
  | iqOverflow
  | halted
  | busErr
deriving DecidableEq, Repr

/-- The counters (10_state.md R52). -/
inductive Counter where
  | syncTimeout
  | peakFail
  | nosample
  | frames
  | ficBlocks
  | cifIn
  | cifStale
  | rsCorr
  | rsUncorr
  | fireFail
  | sfOk
  | auOk
  | auCrcFail
  | auMalformed
  | cmdErr
  | iqOverflow
  | ficDrop
  | auDrop
deriving DecidableEq, Repr

/-! ## Parts of the state -/

/-- Run control: `CTRL` and the flags of `STATUS` (10_state.md R37, R38; 46_control.md R450, R452). -/
structure Ctl where
  run : Bool
  irqEn : Bool
  stopReq : Bool
  finishReq : Bool
  stopped : Bool
  finished : Bool
deriving DecidableEq, Repr

/-- The event registers (10_state.md R36, 60_exceptions.md R472). -/
structure EventRegs where
  irqStatus : BitVec 25
  irqEnable : BitVec 25
  errCause : Word
  errInfo : Word
deriving DecidableEq, Repr

/-- The registers SYNC writes for the host (10_state.md R36) and `STATUS.FRAME_LOCK` (R38). -/
structure Measurements where
  frameCount : Word
  signalLevel : Word
  coarseCorr : Word
  fineCorr : Word
  lastIndex : Word
  oscPhase : Word
  frameLock : Bool
deriving DecidableEq, Repr

/-- The active selection `act` (10_state.md R46). -/
structure Selection where
  subchId : BitVec 6
  startCu : BitVec 10
  sizeCu : BitVec 10
  bitrate : BitVec 11
  profile : Profile
  levelM1 : BitVec 2
  valid : Bool
  generation : BitVec 16
deriving DecidableEq, Repr

/-- The staged and the active sub-channel selection (10_state.md R36, R46, R47). -/
structure SelectionRegs where
  stage0 : Word
  stage1 : Word
  rejected : Bool
  act : Selection
deriving DecidableEq, Repr

/-- One value for each counter (10_state.md R52). -/
structure Counters where
  syncTimeout : Word
  peakFail : Word
  nosample : Word
  frames : Word
  ficBlocks : Word
  cifIn : Word
  cifStale : Word
  rsCorr : Word
  rsUncorr : Word
  fireFail : Word
  sfOk : Word
  auOk : Word
  auCrcFail : Word
  auMalformed : Word
  cmdErr : Word
  iqOverflow : Word
  ficDrop : Word
  auDrop : Word
deriving DecidableEq, Repr

/-- The state SYNC owns (10_state.md R50; 40_sync_ofdm.md R203–R229). The counts `cap`, `scount` and
`gcount` are the lengths of `W`, `S` and `G`. -/
structure SyncState where
  phase : Phase
  env : List Num
  envSum : Num
  envPtr : Nat
  fill : Nat
  c : Nat
  lvl : Num
  theta : Num
  coarse : Int
  fine : Num
  coarsePend : Int
  P : Cx Num
  W : List (Cx Num)
  d : Nat
  l : Nat
  part : Part
  S : List (Cx Num)
  G : List (Cx Num)
  fseq : Word
  nsArmed : Bool
deriving DecidableEq, Repr

/-- The state DEMOD owns (10_state.md R51; 40_sync_ofdm.md R230). `fic` and `cif` hold the soft bits of
the symbols demodulated so far, one list a symbol: their lengths are `fic_fill` and `cif_syms`. -/
structure DemodState where
  zprev : List (Cx Num)
  zvalid : Bool
  dfseq : Word
  fic : List (List SoftBit)
  cif : List (List SoftBit)
  cifNum : Nat
deriving DecidableEq, Repr

/-- The state MSC owns (10_state.md R51; 44_deinterleave_msc.md R371–R373). -/
structure MscState where
  ti : List (List SoftBit)
  tiW : Nat
  tiFill : Nat
  mscGen : BitVec 16
deriving DecidableEq, Repr

/-- The header cache `fmt` (45_superframe.md R412). -/
structure Format where
  byte2 : Byte
  numAus : Nat
  h : Nat
  auStart : List Nat
deriving DecidableEq, Repr

/-- The state SFA owns (10_state.md R51; 45_superframe.md R400). The length of `store` is `sf_count`. -/
structure SfaState where
  phase : SfPhase
  store : List (List Byte)
  fmt : Format
  fmtValid : Bool
  sfaGen : BitVec 16
deriving DecidableEq, Repr

/-- An entry of SYMQ (10_state.md R60). -/
inductive SymEntry where
  | symbol (fseq : Word) (l : Nat) (samples : List (Cx Num))
  | abort (fseq : Word)
deriving DecidableEq, Repr

/-- The queues between the agents (10_state.md R60). `ficq` holds the words of each record not yet
popped, `auq` the words of the AU record stream. -/
structure Queues where
  iqf : List Byte
  sampq : List (Cx Num)
  symq : List SymEntry
  ficq : List (List Word)
  mscq : List (BitVec 16 × List SoftBit)
  sfq : List (BitVec 16 × List Byte)
  auq : List Word
deriving DecidableEq, Repr

/-- BUF as a list of (offset, byte) pairs with strictly rising offsets: the bytes written since the last
hardware reset (20_memory.md R100, R101; DESIGN CHOICE, log 2). -/
abbrev Mem := List Host.Cell

/-- An entry of CMDQ (10_state.md R31, R41). `raced` holds, for every host write to a BUF byte made while
the entry was queued, the offset and the byte's value before the write, and, for every write of an earlier
command to such a byte after that, the values before and after it (20_memory.md R123). `overwritten`
holds the offsets of those made while it was at the head, executing (93_implementation_defined.md I14). -/
structure CmdEntry where
  desc : Descriptor
  seq : BitVec 16
  raced : List Host.Cell
  overwritten : List Nat
deriving DecidableEq, Repr

/-- The command engine (10_state.md R40–R42; 46_control.md R441). `held` is the copy of `act` that a
waiting `INJMSC` or `INJSF` was checked with (30_encoding.md R152). -/
structure CmdState where
  w0 : Word
  w1 : Word
  w2 : Word
  w3 : Word
  queue : List CmdEntry
  seq : BitVec 16
  done : Bool
  qfull : Bool
  lastResult : ResultCode
  lastSeq : BitVec 16
  result : Word
  drainM : Nat
  drainS : Nat
  held : Option Selection
deriving DecidableEq, Repr

/-- The state of the block. `bufEpoch`, `hostData`, `turns` and `tick` are the model's own (logs 1, 2,
17): the number of hardware resets, the data of the last host read, the turns still to come, and the
number of steps taken. -/
structure State where
  ctl : Ctl
  ev : EventRegs
  meas : Measurements
  sel : SelectionRegs
  live : Counters
  snap : Counters
  snapSeq : BitVec 16
  sync : SyncState
  demod : DemodState
  msc : MscState
  sfa : SfaState
  q : Queues
  cmd : CmdState
  buf : Mem
  bufEpoch : Nat
  hostData : Word
  turns : List Turn
  tick : Nat
deriving DecidableEq, Repr

/-! ## Reset (10_state.md R70; the values R70 leaves unspecified are DESIGN CHOICE, log 5) -/

/-- The number 0. -/
def numZero : Num := .dyadic 0 0

/-- The complex number 0. -/
def cxZero : Cx Num := ⟨numZero, numZero⟩

/-- Every counter 0 (10_state.md R70). -/
def Counters.reset : Counters where
  syncTimeout := 0
  peakFail := 0
  nosample := 0
  frames := 0
  ficBlocks := 0
  cifIn := 0
  cifStale := 0
  rsCorr := 0
  rsUncorr := 0
  fireFail := 0
  sfOk := 0
  auOk := 0
  auCrcFail := 0
  auMalformed := 0
  cmdErr := 0
  iqOverflow := 0
  ficDrop := 0
  auDrop := 0

/-- `act` after reset (10_state.md R70). -/
def Selection.reset : Selection where
  subchId := 0
  startCu := 0
  sizeCu := 0
  bitrate := 0
  profile := .A
  levelM1 := 0
  valid := false
  generation := 0

/-- SYNC after reset (10_state.md R70). -/
def SyncState.reset : SyncState where
  phase := .idle
  env := List.replicate envWin numZero
  envSum := numZero
  envPtr := 0
  fill := 0
  c := 0
  lvl := numZero
  theta := numZero
  coarse := 0
  fine := numZero
  coarsePend := 0
  P := cxZero
  W := []
  d := 0
  l := 0
  part := .useful
  S := []
  G := []
  fseq := 0
  nsArmed := true

/-- The command engine after reset (10_state.md R70, R42). -/
def CmdState.reset : CmdState where
  w0 := 0
  w1 := 0
  w2 := 0
  w3 := 0
  queue := []
  seq := 0
  done := false
  qfull := false
  lastResult := .ok
  lastSeq := 0
  result := 0
  drainM := 0
  drainS := 0
  held := none

/-- The block right after a hardware reset (70_reset_and_hazards.md R510, 10_state.md R70). -/
def State.reset : State where
  ctl := { run := false, irqEn := false, stopReq := false, finishReq := false, stopped := false,
           finished := false }
  ev := { irqStatus := 0, irqEnable := 0, errCause := 0, errInfo := 0 }
  meas := { frameCount := 0, signalLevel := 0, coarseCorr := 0, fineCorr := 0, lastIndex := 0,
            oscPhase := 0, frameLock := false }
  sel := { stage0 := 0, stage1 := 0, rejected := false, act := Selection.reset }
  live := Counters.reset
  snap := Counters.reset
  snapSeq := 0
  sync := SyncState.reset
  demod := { zprev := [], zvalid := false, dfseq := 0, fic := [], cif := [], cifNum := 0 }
  msc := { ti := List.replicate interleaverDepth [], tiW := 0, tiFill := 0, mscGen := 0 }
  sfa := { phase := .accumulating, store := [],
           fmt := { byte2 := 0, numAus := 0, h := 0, auStart := [] }, fmtValid := false, sfaGen := 0 }
  q := { iqf := [], sampq := [], symq := [], ficq := [], mscq := [], sfq := [], auq := [] }
  cmd := CmdState.reset
  buf := []
  bufEpoch := 0
  hostData := 0
  turns := []
  tick := 0

end Sys2Proof.Machine
end

