-- ==== Sys2Proof/Machine/Bits.lean ====
section
/-! DEFINITION. Bit fields, byte order and bit packing (00_scope.md R14, R15; 20_memory.md R105). -/

namespace Sys2Proof.Machine

/-- A word with bit `i` equal to `b` and every other bit 0. -/
def flagAt (b : Bool) (i : Nat) : Word := if b then 1#32 <<< i else 0#32

/-- Byte `i` of a word, byte 0 the least significant (20_memory.md R105). -/
def byteOfWord (w : Word) (i : Nat) : Byte := w.extractLsb' (8 * i) 8

/-- The `n` low bytes of a word, the least significant first (20_memory.md R105). -/
def bytesOfWord (n : Nat) (w : Word) : List Byte := (List.range n).map (byteOfWord w)

/-- The word whose byte `i` is the `i`-th byte of the list, 0 past its end (20_memory.md R105). -/
def wordOfBytes (bs : List Byte) : Word :=
  bs.getD 3 0 ++ bs.getD 2 0 ++ bs.getD 1 0 ++ bs.getD 0 0

/-- The words that hold a list of bytes, byte `4w + i` in bits `[8i+7:8i]` of word `w`, unused bytes 0
(40_sync_ofdm.md R244, 45_superframe.md R418). -/
def wordsOfBytes (bs : List Byte) : List Word :=
  (List.range ((bs.length + 3) / 4)).map fun w => wordOfBytes (bs.drop (4 * w))

/-- Bit `k` of a packed bit stream: bit `7 − k mod 8` of byte `k / 8` (00_scope.md R15). -/
def streamBit (bs : List Byte) (k : Nat) : Bool := (bs.getD (k / 8) 0).getLsbD (7 - k % 8)

/-- The first `n` bits of a packed bit stream (00_scope.md R15). -/
def unpackBits (bs : List Byte) (n : Nat) : List Bool := (List.range n).map (streamBit bs)

/-- The byte with bit `7 − i` equal to `f i` for `i` in 0…7. -/
def byteOfBits (f : Nat → Bool) : Byte :=
  (List.range 8).foldl (fun acc i => (acc <<< 1) ||| (if f i then 1 else 0)) 0

/-- `pack`: the bits of a stream in bytes, the first bit the most significant of the first byte, the
unused low bits of the last byte 0 (00_scope.md R15). -/
def packBits (bits : List Bool) : List Byte :=
  (List.range ((bits.length + 7) / 8)).map fun m => byteOfBits fun i => bits.getD (8 * m + i) false

/-- `sat8` (00_scope.md R14): the value clamped to [−128, 127], as an `i8`. -/
def sat8 (v : Int) : SoftBit := BitVec.ofInt 8 (min 127 (max (-128) v))

end Sys2Proof.Machine
end

