-- ==== Sys2Proof/Machine/Numeric.lean ====
section
/-! DEFINITION. The numeric units, written once over any arithmetic `A` (00_scope.md R18–R20): transforms,
the phase reference symbol, FindIndex, the coarse and fine estimators, differential demodulation and
soft-bit quantisation (40_sync_ofdm.md R217–R236). The machine uses them with `Config.dsp` (DESIGN CHOICE, log 4). -/

namespace Sys2Proof.Machine

variable {α : Type}

/-! ## Complex arithmetic (00_scope.md R18) -/

/-- The integer `i` as a number. -/
def ofInt (A : Arith α) (i : Int) : α := A.dyadic i 0

/-- The complex number 0. -/
def cx0 (A : Arith α) : Cx α := ⟨ofInt A 0, ofInt A 0⟩

/-- `conj z`. -/
def conj (A : Arith α) (z : Cx α) : Cx α := ⟨z.re, A.neg z.im⟩

/-- `x · y`. -/
def cxMul (A : Arith α) (x y : Cx α) : Cx α := A.dot [(x, y)]

/-- `x + y`. -/
def cxAdd (A : Arith α) (x y : Cx α) : Cx α := ⟨A.add x.re y.re, A.add x.im y.im⟩

/-- `‖z‖₁ = |re| + |im|`. -/
def l1 (A : Arith α) (z : Cx α) : α := A.add (A.abs z.re) (A.abs z.im)

/-- `e^(j·q·π/2)`, exactly. -/
def quarterTurn (A : Arith α) (q : Nat) : Cx α :=
  match q % 4 with
  | 0 => ⟨ofInt A 1, ofInt A 0⟩
  | 1 => ⟨ofInt A 0, ofInt A 1⟩
  | 2 => ⟨ofInt A (-1), ofInt A 0⟩
  | _ => ⟨ofInt A 0, ofInt A (-1)⟩

/-- `|z| = 0`, as `|z| ≤ 0` (DESIGN CHOICE, log 4). -/
def isZero (A : Arith α) (m : α) : Bool := A.le m (ofInt A 0)

/-- `arg z ∈ (−π, π]` with `arg 0 = 0` (00_scope.md R18). -/
def argOf (A : Arith α) (z : Cx α) : α := if isZero A (A.modulus z) then ofInt A 0 else A.arg z

/-! ## Transforms (00_scope.md R19) -/

/-- `FFT_N(x)[k] = Σ x[n]·e^(−j2πnk/N)`, `N` the length of `x`. -/
def fft (A : Arith α) (x : List (Cx α)) : List (Cx α) :=
  (List.range x.length).map fun k =>
    A.dot (x.zipIdx.map fun p => (p.1, A.root (-((p.2 * k : Nat) : Int)) x.length))

/-- `IFFT_N(X)[n] = (1/N)·Σ X[k]·e^(+j2πnk/N)`, `N` the length of `X`. -/
def ifft (A : Arith α) (x : List (Cx α)) : List (Cx α) :=
  (List.range x.length).map fun n =>
    let z := A.dot (x.zipIdx.map fun p => (p.1, A.root ((p.2 * n : Nat) : Int) x.length))
    ⟨A.div z.re (ofInt A x.length), A.div z.im (ofInt A x.length)⟩

/-- The bin of carrier `k`: `k mod 2048` (00_scope.md R19). -/
def binOf (k : Int) : Nat := (k % (Tu : Int)).toNat

/-- Element `i` of a spectrum or of a sample vector. -/
def at0 (A : Arith α) (x : List (Cx α)) (i : Nat) : Cx α := x.getD i (cx0 A)

/-! ## Phase reference symbol (40_sync_ofdm.md R217, R232) -/

/-- The rows (k', i, n) of the table of 40_sync_ofdm.md R232. -/
def prsRows : List (Int × Nat × Nat) :=
  [
   (-768, 0, 1), (-736, 1, 2), (-704, 2, 0), (-672, 3, 1), (-640, 0, 3), (-608, 1, 2),
   (-576, 2, 2), (-544, 3, 3), (-512, 0, 2), (-480, 1, 1), (-448, 2, 2), (-416, 3, 3),
   (-384, 0, 1), (-352, 1, 2), (-320, 2, 3), (-288, 3, 3), (-256, 0, 2), (-224, 1, 2),
   (-192, 2, 2), (-160, 3, 1), (-128, 0, 1), (-96, 1, 3), (-64, 2, 1), (-32, 3, 2),
   (1, 0, 3), (33, 3, 1), (65, 2, 1), (97, 1, 1), (129, 0, 2), (161, 3, 2),
   (193, 2, 1), (225, 1, 0), (257, 0, 2), (289, 3, 2), (321, 2, 3), (353, 1, 3),
   (385, 0, 0), (417, 3, 2), (449, 2, 1), (481, 1, 3), (513, 0, 3), (545, 3, 3),
   (577, 2, 3), (609, 1, 0), (641, 0, 3), (673, 3, 0), (705, 2, 1), (737, 1, 1)]

/-- The sequences h_0 … h_3 of 40_sync_ofdm.md R232. -/
def prsH : List (List Nat) :=
  [
   [0, 2, 0, 0, 0, 0, 1, 1, 2, 0, 0, 0, 2, 2, 1, 1, 0, 2, 0, 0, 0, 0, 1, 1, 2, 0, 0, 0, 2, 2, 1, 1],
   [0, 3, 2, 3, 0, 1, 3, 0, 2, 1, 2, 3, 2, 3, 3, 0, 0, 3, 2, 3, 0, 1, 3, 0, 2, 1, 2, 3, 2, 3, 3, 0],
   [0, 0, 0, 2, 0, 2, 1, 3, 2, 2, 0, 2, 2, 0, 1, 3, 0, 0, 0, 2, 0, 2, 1, 3, 2, 2, 0, 2, 2, 0, 1, 3],
   [0, 1, 2, 1, 0, 3, 3, 2, 2, 3, 2, 1, 2, 1, 3, 2, 0, 1, 2, 1, 0, 3, 3, 2, 2, 3, 2, 1, 2, 1, 3, 2]]

/-- `φ_k` in quarter turns for an active carrier, none for the others (40_sync_ofdm.md R232, 00_scope.md
R11). -/
def prsPhase (k : Int) : Option Nat :=
  (prsRows.find? fun r => r.1 ≤ k && k ≤ r.1 + 31).map fun r =>
    ((prsH.getD r.2.1 []).getD (k - r.1).toNat 0 + r.2.2) % 4

/-- The carrier of bin `b`: in −1024…1023. -/
def carrierOf (b : Nat) : Int := if b < 1024 then (b : Int) else (b : Int) - 2048

/-- The reference spectrum `R[0..2047]` (40_sync_ofdm.md R217). -/
def refSpectrum (A : Arith α) : List (Cx α) :=
  (List.range Tu).map fun b =>
    match prsPhase (carrierOf b) with
    | some q => quarterTurn A q
    | none => cx0 A

/-- `conj(R[k])`, exactly. -/
def refConj (A : Arith α) : List (Cx α) :=
  (List.range Tu).map fun b =>
    match prsPhase (carrierOf b) with
    | some q => quarterTurn A (4 - q)
    | none => cx0 A

/-! ## FindIndex (40_sync_ofdm.md R218) -/

/-- The OPEN parameters of FindIndex (00_scope.md R13). -/
structure FindParams where
  binSize : Nat
  topK : Nat
  nearDist : Nat
deriving DecidableEq, Repr

/-- The pair with the largest second part, the first of them on ties. -/
def argMax {β : Type} (A : Arith α) : List (β × α) → Option (β × α)
  | [] => none
  | p :: ps => some (ps.foldl (fun best q => if A.lt best.2 q.2 then q else best) p)

/-- The `k` pairs with the largest second part, ties to the earlier one (fewer if there are fewer). -/
def topPairs (A : Arith α) : Nat → List (Nat × α) → List (Nat × α)
  | 0, _ => []
  | k + 1, ps =>
    match argMax A ps with
    | none => []
    | some p => p :: topPairs A k (ps.filter fun q => q.1 != p.1)

/-- The channel impulse response estimate `|h[n]|` of a window. -/
def impulseResponse (A : Arith α) (w : List (Cx α)) : List α :=
  (ifft A (((fft A w).zip (refConj A)).map fun p => cxMul A p.1 p.2)).map A.modulus

/-- The bin energies `E[b]`. -/
def binEnergies (A : Arith α) (binSize : Nat) (m : List α) : List α :=
  (List.range (Tu / binSize)).map fun b => A.sum ((m.drop (b * binSize)).take binSize)

/-- `peak(b)`: a local maximum of the bin energy, not cyclic. -/
def isPeak (A : Arith α) (e : List α) (b : Nat) : Bool :=
  let at_ := fun i => e.getD i (ofInt A 0)
  (b == 0 || A.lt (at_ (b - 1)) (at_ b)) && (b + 1 == e.length || A.le (at_ (b + 1)) (at_ b))

/-- The surviving peak bins: among the `TOPK` largest peaks, those near the global peak bin `g` and above
`PEAK_RATIO` = 3 times the mean. -/
def survivors (A : Arith α) (p : FindParams) (e : List α) (g : Nat) : List (Nat × α) :=
  let mean := A.div (A.sum e) (ofInt A e.length)
  let peaks := ((List.range e.length).zip e).filter fun q => isPeak A e q.1
  (topPairs A p.topK peaks).filter fun q =>
    (max q.1 g - min q.1 g) * p.binSize ≤ p.nearDist && A.lt (A.mul (ofInt A 3) mean) q.2

/-- `FindIndex(W)`: the offset of the first useful sample of the phase reference symbol, or FAIL
(40_sync_ofdm.md R218). -/
def findIndex (A : Arith α) (p : FindParams) (w : List (Cx α)) : Option Nat :=
  let m := impulseResponse A w
  let e := binEnergies A p.binSize m
  let g := ((argMax A ((List.range e.length).zip e)).map (·.1)).getD 0
  match (survivors A p e g).map (·.1) with
  | [] => none
  | b :: bs =>
    let first := bs.foldl min b
    let ns := (List.range p.binSize).map (first * p.binSize + ·)
    (argMax A (ns.map fun n => (n, m.getD n (ofInt A 0)))).map (·.1)

/-! ## Frequency estimators (40_sync_ofdm.md R222, R223) -/

/-- The carriers k with k and k + 1 both active: −768…−2 and 1…767. -/
def pairCarriers : List Int :=
  (List.range 767).map (fun i : Nat => (i : Int) - 768)
    ++ (List.range 767).map (fun i : Nat => (i : Int) + 1)

/-- `conj(conj(R[k])·R[k+1])` in quarter turns. -/
def prsStepBack (k : Int) : Nat := (prsPhase k).getD 0 + (4 - (prsPhase (k + 1)).getD 0)

/-- `C(s)` of 40_sync_ofdm.md R223. -/
def coarseCorrelation (A : Arith α) (v : List (Cx α)) (shift : Int) : α :=
  A.modulus (A.dot (pairCarriers.map fun k =>
    (cxMul A (conj A (at0 A v (binOf (k + shift)))) (at0 A v (binOf (k + 1 + shift))),
     quarterTurn A (prsStepBack k))))

/-- The shifts 0, −1, 1, −2, 2, …, −r, r: in the order in which ties are broken (40_sync_ofdm.md R223). -/
def shiftOrder (r : Nat) : List Int :=
  0 :: ((List.range r).map fun i : Nat => [-((i : Int) + 1), (i : Int) + 1]).flatten

/-- `CoarseEst(V)` with the half-range `r` (40_sync_ofdm.md R223). -/
def coarseEst (A : Arith α) (r : Nat) (v : List (Cx α)) : Int :=
  ((argMax A ((shiftOrder r).map fun s => (s, coarseCorrelation A v s))).map (·.1)).getD 0

/-- The guard correlation `Σ S[T_u − T_g + n]·conj(G[n])` of one symbol (40_sync_ofdm.md R221, R222). -/
def guardCorrelation (A : Arith α) (s g : List (Cx α)) : Cx α :=
  A.dot ((List.range Tg).map fun n => (at0 A s (Tu - Tg + n), conj A (at0 A g n)))

/-- The residual offset `arg(P)·Δf/2π` in Hz (40_sync_ofdm.md R222). -/
def residual (A : Arith α) (p : Cx α) : α :=
  A.div (A.mul (argOf A p) (ofInt A carrierSpacing)) (A.timesTwoPi (ofInt A 1))

/-! ## Soft bits (40_sync_ofdm.md R233–R236) -/

/-- `q(v, |z|)` (40_sync_ofdm.md R234). -/
def quantise (A : Arith α) (scale v m : α) : SoftBit :=
  if isZero A m then 0 else sat8 (A.rnd (A.div (A.mul (A.neg scale) v) m))

/-- The `n` values π(i), π(i+1), …, from π(i) = `v` on: π(i+1) = (13·π(i) + 511) mod 2048 (40_sync_ofdm.md
R236). -/
def interleaverWalk : Nat → Nat → List Nat
  | 0, _ => []
  | n + 1, v => v :: interleaverWalk n ((13 * v + 511) % 2048)

/-- The de-interleaving map `F[0..1535]` (40_sync_ofdm.md R236). -/
def freqMap : List Int :=
  ((interleaverWalk Tu 0).filter fun v => 256 ≤ v && v ≤ 1792 && v != 1024).map
    fun v : Nat => (v : Int) - 1024

/-- `z_k` of carrier `k` (40_sync_ofdm.md R233). -/
def diffCarrier (A : Arith α) (zprev z : List (Cx α)) (k : Int) : Cx α :=
  cxMul A (at0 A z (binOf k)) (conj A (at0 A zprev (binOf k)))

/-- `SoftBits(Zprev, Z)`: the real parts of all carriers, then the imaginary parts (40_sync_ofdm.md
R235). -/
def softBits (A : Arith α) (scale : α) (zprev z : List (Cx α)) : List SoftBit :=
  let zs := freqMap.map (diffCarrier A zprev z)
  zs.map (fun v => quantise A scale v.re (A.modulus v))
    ++ zs.map (fun v => quantise A scale v.im (A.modulus v))

/-! ## Complex vectors in BUF (20_memory.md R106) -/

/-- The complex sample in 8 bytes: the real part first, each part a little-endian binary32. -/
def cxOfBytes (A : Arith α) (bs : List Byte) : Cx α :=
  ⟨A.ofSingle (wordOfBytes bs), A.ofSingle (wordOfBytes (bs.drop 4))⟩

/-- `n` complex samples in `8·n` bytes. -/
def cxVector (A : Arith α) (n : Nat) (bs : List Byte) : List (Cx α) :=
  (List.range n).map fun i => cxOfBytes A ((bs.drop (8 * i)).take 8)

/-- The 8 bytes of a complex sample (20_memory.md R106). How a computed part is rounded to binary32 neither R106
nor 40_sync_ofdm.md R250 says: it is rounded as `bits32` of R203 rounds, to the nearest, ties to even (DESIGN
CHOICE, log 4). -/
def bytesOfCx (A : Arith α) (z : Cx α) : List Byte :=
  bytesOfWord 4 (A.toSingle z.re) ++ bytesOfWord 4 (A.toSingle z.im)

/-- The bytes of a complex vector, contiguous in index order. -/
def bytesOfCxVector (A : Arith α) (x : List (Cx α)) : List Byte := (x.map (bytesOfCx A)).flatten

/-- The sample of an IQ byte pair: `(I − 128)/128 + j·(Q − 128)/128` (40_sync_ofdm.md R200). -/
def sampleOfBytes (A : Arith α) (i q : Byte) : Cx α :=
  ⟨A.dyadic ((i.toNat : Int) - 128) 7, A.dyadic ((q.toNat : Int) - 128) 7⟩

end Sys2Proof.Machine
end

