-- ==== Sys2Proof/WellFormed.lean ====
section
/-! DEFINITION. The legal values of a command's PARAM fields (30_encoding.md R142). A command that is not
well-formed is *malformed* (R144): it decodes, and completes with `BAD_DESC`. -/

namespace Sys2Proof

/-- `BITRATE` is a row of 42_eep_dispersal.md R302 for the profile: 8·n for A, 32·n for B, n ≥ 1. -/
def legalBitrate (p : Profile) (bitrate : Nat) : Bool :=
  match p with
  | .A => bitrate % 8 == 0 && 8 ≤ bitrate
  | .B => bitrate % 32 == 0 && 32 ≤ bitrate

/-- A command whose PARAM fields have legal values (30_encoding.md R142). -/
def Instr.wellFormed : Instr → Bool
  | .nop => true
  | .fft _ _ _ => true
  | .findidx _ => true
  | .coarse _ => true
  | .ddemod _ _ cur => cur.toNat % 8 == 0
  | .vitdec _ _ n => 1 ≤ n.toNat
  | .depunct _ _ bitrate profile _ => legalBitrate profile bitrate.toNat
  | .descr _ _ nbits => 1 ≤ nbits.toNat
  | .rsdec _ _ => true
  | .sfchk _ _ cw => 1 ≤ cw.toNat
  | .firecrc _ => true
  | .crc16 _ nbytes => nbytes.toNat ≤ 262144
  | .injmsc _ => true
  | .injsf _ => true
  | .drain => true

end Sys2Proof
end

