-- ==== Sys2Proof/Decode.lean ====
section
/-! DEFINITION. The decoder of a descriptor (30_encoding.md R140–R144), total on any four words and
rejecting by name, and the encoder (R148). -/

namespace Sys2Proof

/-- The field `OP` (30_encoding.md R140). -/
def Descriptor.op (d : Descriptor) : BitVec 8 := d.w0.extractLsb' 0 8

/-- The field `SUB` (30_encoding.md R140). -/
def Descriptor.sub (d : Descriptor) : BitVec 8 := d.w0.extractLsb' 8 8

/-- The field `SRC` (30_encoding.md R140). -/
def Descriptor.src (d : Descriptor) : BufOffset := d.w1.extractLsb' 0 18

/-- The field `DST` (30_encoding.md R140). -/
def Descriptor.dst (d : Descriptor) : BufOffset := d.w2.extractLsb' 0 18

/-- The reserved bits of W0, W1 and W2 are 0 (30_encoding.md R140). -/
def Descriptor.reservedZero (d : Descriptor) : Bool :=
  d.w0.extractLsb' 16 16 == 0 && d.w1.extractLsb' 18 14 == 0 && d.w2.extractLsb' 18 14 == 0

/-- The profile bit of PARAM (30_encoding.md R142: 0 = A, 1 = B). -/
def profileOfBit (b : Bool) : Profile := if b then .B else .A

/-- The bit of a profile (30_encoding.md R142). -/
def Profile.bit : Profile → BitVec 1
  | .A => 0
  | .B => 1

/-- A known opcode: the instruction when its reserved bits and unused fields are 0, else malformed
(30_encoding.md R144). -/
def accept (fieldsOk : Bool) (i : Instr) : Decoded := if fieldsOk then .instr i else .badDesc

/-- The decoder (30_encoding.md R143, R144, R148). The legal values of PARAM are the check of the
instruction's meaning (R152), not the decoder's. -/
def decode (d : Descriptor) : Decoded :=
  let noSub := d.reservedZero && d.sub == 0
  let noDst := d.dst == 0
  let noParam := d.w3 == 0
  match d.op.toNat with
  | 0x00 => accept (noSub && d.src == 0 && noDst && noParam) .nop
  | 0x01 => accept (d.reservedZero && d.sub.extractLsb' 1 7 == 0 && noParam)
      (.fft (d.sub.getLsbD 0) d.src d.dst)
  | 0x02 => accept (noSub && noDst && noParam) (.findidx d.src)
  | 0x03 => accept (noSub && noDst && noParam) (.coarse d.src)
  | 0x04 => accept (noSub && d.w3.extractLsb' 18 14 == 0)
      (.ddemod d.src d.dst (d.w3.extractLsb' 0 18))
  | 0x05 => accept (noSub && d.w3.extractLsb' 20 12 == 0)
      (.vitdec d.src d.dst (d.w3.extractLsb' 0 20))
  | 0x06 => accept (noSub && d.w3.extractLsb' 15 17 == 0 && d.w3.getLsbD 11 == false)
      (.depunct d.src d.dst (d.w3.extractLsb' 0 11) (profileOfBit (d.w3.getLsbD 12))
        (d.w3.extractLsb' 13 2))
  | 0x07 => accept (noSub && d.w3.extractLsb' 21 11 == 0)
      (.descr d.src d.dst (d.w3.extractLsb' 0 21))
  | 0x08 => accept (noSub && noParam) (.rsdec d.src d.dst)
  | 0x09 => accept (noSub && d.w3.extractLsb' 8 24 == 0) (.sfchk d.src d.dst (d.w3.extractLsb' 0 8))
  | 0x0A => accept (noSub && noDst && noParam) (.firecrc d.src)
  | 0x0B => accept (noSub && noDst && d.w3.extractLsb' 19 13 == 0)
      (.crc16 d.src (d.w3.extractLsb' 0 19))
  | 0x0C => accept (noSub && noDst && noParam) (.injmsc d.src)
  | 0x0D => accept (noSub && noDst && noParam) (.injsf d.src)
  | 0x0E => accept (noSub && d.src == 0 && noDst && noParam) .drain
  | _ => .illegal

/-- A descriptor of its fields (30_encoding.md R140). -/
def descriptorOf (op sub : BitVec 8) (src dst : BufOffset) (param : Word) : Descriptor where
  w0 := 0#16 ++ sub ++ op
  w1 := 0#14 ++ src
  w2 := 0#14 ++ dst
  w3 := param

/-- The PARAM word of `DEPUNCT` (30_encoding.md R142). -/
def depunctParam (bitrate : BitVec 11) (profile : Profile) (levelM1 : BitVec 2) : Word :=
  0#17 ++ levelM1 ++ profile.bit ++ 0#1 ++ bitrate

/-- The encoder: the descriptor words of an instruction (30_encoding.md R148). -/
def encode : Instr → Descriptor
  | .nop => descriptorOf 0x00 0 0 0 0
  | .fft inv src dst => descriptorOf 0x01 (0#7 ++ BitVec.ofBool inv) src dst 0
  | .findidx src => descriptorOf 0x02 0 src 0 0
  | .coarse src => descriptorOf 0x03 0 src 0 0
  | .ddemod src dst cur => descriptorOf 0x04 0 src dst (0#14 ++ cur)
  | .vitdec src dst n => descriptorOf 0x05 0 src dst (0#12 ++ n)
  | .depunct src dst bitrate profile levelM1 =>
      descriptorOf 0x06 0 src dst (depunctParam bitrate profile levelM1)
  | .descr src dst nbits => descriptorOf 0x07 0 src dst (0#11 ++ nbits)
  | .rsdec src dst => descriptorOf 0x08 0 src dst 0
  | .sfchk src dst cw => descriptorOf 0x09 0 src dst (0#24 ++ cw)
  | .firecrc src => descriptorOf 0x0A 0 src 0 0
  | .crc16 src nbytes => descriptorOf 0x0B 0 src 0 (0#13 ++ nbytes)
  | .injmsc src => descriptorOf 0x0C 0 src 0 0
  | .injsf src => descriptorOf 0x0D 0 src 0 0
  | .drain => descriptorOf 0x0E 0 0 0 0

/-- The descriptor whose bits are `w`, W0 in bits 31:0, W1 in bits 63:32, and so on. -/
def descriptorOfNat (w : Nat) : Descriptor where
  w0 := BitVec.ofNat 32 w
  w1 := BitVec.ofNat 32 (w >>> 32)
  w2 := BitVec.ofNat 32 (w >>> 64)
  w3 := BitVec.ofNat 32 (w >>> 96)

/-- The instruction the decoder reads from an instruction whose lowest `nbits` bits are those of `w` and
whose other bits are 0. -/
def decodeTableWord (nbits w : Nat) : Option Instr :=
  match decode (descriptorOfNat (w % 2 ^ nbits)) with
  | .instr i => some i
  | .illegal => none
  | .badDesc => none

end Sys2Proof
end

