-- ==== Sys2Proof/Machine/Flags.lean ====
section
/-! DEFINITION. Event codes and classes (60_exceptions.md R470), result codes (30_encoding.md R151), the
counters' accessors (10_state.md R52), and the status words and the interrupt line, which are views of
the state (10_state.md R38, R42; 60_exceptions.md R473). -/

namespace Sys2Proof.Machine

/-- The code of an event: its bit in `IRQ_STATUS` and its value in `ERR_CAUSE` (60_exceptions.md R470). -/
def Event.code : Event → Nat
  | .frameDone => 0
  | .syncTimeout => 1
  | .peakFail => 2
  | .nosample => 3
  | .ficReady => 4
  | .ficDrop => 5
  | .cifStale => 6
  | .subchSwap => 7
  | .subchReject => 8
  | .rsCorrected => 9
  | .rsUncorr => 10
  | .fireFail => 11
  | .sfSync => 12
  | .sfLost => 13
  | .auReady => 14
  | .auCrcFail => 15
  | .auMalformed => 16
  | .auDrop => 17
  | .format => 18
  | .cmdDone => 19
  | .cmdErr => 20
  | .cmdQfull => 21
  | .iqOverflow => 22
  | .halted => 23
  | .busErr => 24

/-- Whether an event is of class E (60_exceptions.md R470). -/
def Event.isError : Event → Bool
  | .frameDone => false
  | .syncTimeout => true
  | .peakFail => true
  | .nosample => true
  | .ficReady => false
  | .ficDrop => true
  | .cifStale => false
  | .subchSwap => false
  | .subchReject => true
  | .rsCorrected => false
  | .rsUncorr => true
  | .fireFail => true
  | .sfSync => false
  | .sfLost => true
  | .auReady => false
  | .auCrcFail => true
  | .auMalformed => true
  | .auDrop => true
  | .format => false
  | .cmdDone => false
  | .cmdErr => true
  | .cmdQfull => true
  | .iqOverflow => true
  | .halted => false
  | .busErr => true

/-- The 4-bit code of a result (30_encoding.md R151). -/
def ResultCode.code : ResultCode → BitVec 4
  | .ok => 0
  | .illegal => 1
  | .badDesc => 2
  | .badAddr => 3
  | .uncorrectable => 4
  | .crcMismatch => 5
  | .peakFail => 6
  | .aborted => 7
  | .noSubch => 8

/-- Whether a result is a command error: not `OK` and not a data outcome (30_encoding.md R150, R151;
90_conflicts.md C8). -/
def ResultCode.isError : ResultCode → Bool
  | .ok => false
  | .illegal => true
  | .badDesc => true
  | .badAddr => true
  | .uncorrectable => false
  | .crcMismatch => false
  | .peakFail => false
  | .aborted => true
  | .noSubch => true

/-- The code of a SYNC phase in `STATUS.SYNC_PHASE` (10_state.md R38). -/
def Phase.code : Phase → Nat
  | .idle => 0
  | .fill => 1
  | .nullSearch => 2
  | .nullExit => 3
  | .capture => 4
  | .symbols => 5

/-- The value of a counter (10_state.md R52). -/
def Counters.get (k : Counters) : Counter → Word
  | .syncTimeout => k.syncTimeout
  | .peakFail => k.peakFail
  | .nosample => k.nosample
  | .frames => k.frames
  | .ficBlocks => k.ficBlocks
  | .cifIn => k.cifIn
  | .cifStale => k.cifStale
  | .rsCorr => k.rsCorr
  | .rsUncorr => k.rsUncorr
  | .fireFail => k.fireFail
  | .sfOk => k.sfOk
  | .auOk => k.auOk
  | .auCrcFail => k.auCrcFail
  | .auMalformed => k.auMalformed
  | .cmdErr => k.cmdErr
  | .iqOverflow => k.iqOverflow
  | .ficDrop => k.ficDrop
  | .auDrop => k.auDrop

/-- A counter increased by `n` modulo 2^32 (10_state.md R52). -/
def Counters.add (k : Counters) (i : Counter) (n : Word) : Counters :=
  match i with
  | .syncTimeout => { k with syncTimeout := k.syncTimeout + n }
  | .peakFail => { k with peakFail := k.peakFail + n }
  | .nosample => { k with nosample := k.nosample + n }
  | .frames => { k with frames := k.frames + n }
  | .ficBlocks => { k with ficBlocks := k.ficBlocks + n }
  | .cifIn => { k with cifIn := k.cifIn + n }
  | .cifStale => { k with cifStale := k.cifStale + n }
  | .rsCorr => { k with rsCorr := k.rsCorr + n }
  | .rsUncorr => { k with rsUncorr := k.rsUncorr + n }
  | .fireFail => { k with fireFail := k.fireFail + n }
  | .sfOk => { k with sfOk := k.sfOk + n }
  | .auOk => { k with auOk := k.auOk + n }
  | .auCrcFail => { k with auCrcFail := k.auCrcFail + n }
  | .auMalformed => { k with auMalformed := k.auMalformed + n }
  | .cmdErr => { k with cmdErr := k.cmdErr + n }
  | .iqOverflow => { k with iqOverflow := k.iqOverflow + n }
  | .ficDrop => { k with ficDrop := k.ficDrop + n }
  | .auDrop => { k with auDrop := k.auDrop + n }

/-- The register `STATUS` (10_state.md R38). -/
def State.statusWord (s : State) : Word :=
  BitVec.ofNat 32 s.sync.phase.code
    ||| flagAt s.meas.frameLock 3
    ||| flagAt (s.sfa.phase == .synced) 4
    ||| ((BitVec.ofNat 3 s.sfa.store.length).zeroExtend 32 <<< 5)
    ||| flagAt (!s.cmd.queue.isEmpty) 8
    ||| flagAt s.ctl.finished 9
    ||| flagAt s.ctl.stopped 10
    ||| flagAt s.ctl.stopReq 11
    ||| flagAt s.ctl.finishReq 12
    ||| flagAt s.sel.act.valid 13
    ||| flagAt (s.q.iqf.length % 2 == 1) 14
    ||| flagAt s.sfa.fmtValid 15

/-- The register `CMD_STATUS` (10_state.md R42). -/
def State.cmdStatusWord (s : State) : Word :=
  flagAt (!s.cmd.queue.isEmpty) 0
    ||| flagAt s.cmd.done 1
    ||| flagAt s.cmd.qfull 2
    ||| (s.cmd.lastResult.code.zeroExtend 32 <<< 4)
    ||| ((BitVec.ofNat 4 s.cmd.queue.length).zeroExtend 32 <<< 8)
    ||| (s.cmd.lastSeq.zeroExtend 32 <<< 16)

/-- The register `CTRL` as it is read: the W1 bits read 0 (10_state.md R37). -/
def State.ctrlWord (s : State) : Word := flagAt s.ctl.run 0 ||| flagAt s.ctl.irqEn 4

/-- The interrupt line (60_exceptions.md R473). -/
def State.irq (s : State) : Bool := s.ctl.irqEn && (s.ev.irqStatus &&& s.ev.irqEnable) != 0

/-- A streaming agent is halted by a stop or by FINISHED (46_control.md R450, R452, R454). -/
def State.halted (s : State) : Bool := s.ctl.stopReq || s.ctl.finished

/-- A streaming agent may step: RUN = 1 and it is not halted (46_control.md R454). -/
def State.streaming (s : State) : Bool := s.ctl.run && !s.halted

end Sys2Proof.Machine
end

