-- ==== Sys2Proof/Machine/Ops.lean ====
section
/-! DEFINITION. The named operations over memory, events, counters and the command queue that every
agent and every command uses: `MemRead` and `MemWrite` (00_scope.md R17), `raise Event`
(60_exceptions.md R472) and `complete` (30_encoding.md R150). -/

namespace Sys2Proof.Machine

/-! ## BUF (20_memory.md R100, R101) -/

/-- The canonical form of BUF: offsets strictly rise and lie in BUF (DESIGN CHOICE, log 2). -/
abbrev memWf (m : Mem) : Prop := m.Pairwise (fun x y => x.1 < y.1) ∧ ∀ c ∈ m, c.1 < bufBytes

/-- The byte written at offset `a`, if any was. -/
def memLookup (m : Mem) (a : Nat) : Option Byte := (m.find? fun c => c.1 == a).map (·.2)

/-- The bytes `bs` written at offsets `a`, `a + 1`, …. -/
def memStore (m : Mem) (a : Nat) (bs : List Byte) : Mem :=
  m.filter (fun c => c.1 < a) ++ (bs.zipIdx a).map (fun p => (p.2, p.1))
    ++ m.filter (fun c => a + bs.length ≤ c.1)

/-- The byte of BUF at offset `a`: a byte nothing has written since the hardware reset reads a free value
(93_implementation_defined.md I13; DESIGN CHOICE, log 2). -/
def State.bufByte (s : State) (a : Nat) : Byte :=
  (memLookup s.buf a).getD (Config.bufPowerOn s.bufEpoch a)

/-- BUF with the bytes `bs` written from offset `a` on. -/
def State.memWrite (s : State) (a : Nat) (bs : List Byte) : State :=
  { s with buf := memStore s.buf a bs }

/-- The bytes that the command at the head of CMDQ may read at offset `a`: the present one first, then
every value its races noted while it was queued (20_memory.md R123; DEDUCED, log 3). -/
def State.readable (s : State) (a : Nat) : List Byte :=
  s.bufByte a :: ((s.cmd.queue.head?.map (·.raced)).getD [] |>.filter (fun c => c.1 == a)).map (·.2)

/-- One of the values of a raced byte, freely chosen for this step and offset (20_memory.md R123). -/
def State.pick (s : State) (a : Nat) (values : List Byte) (present : Byte) : Byte :=
  match values with
  | [] => present
  | [b] => b
  | bs => bs.getD (Config.racePick s.tick a % bs.length) present

/-- The byte a command reads at offset `a`. -/
def State.cmdByte (s : State) (a : Nat) : Byte := s.pick a (s.readable a) (s.bufByte a)

/-- `MemRead(a, n)` of a command (00_scope.md R17): the `n` bytes from offset `a` on. -/
def State.memRead (s : State) (a n : Nat) : List Byte := (List.range n).map fun i => s.cmdByte (a + i)

/-- The host wrote offset `a` while the command at the head of CMDQ executed
(93_implementation_defined.md I14; DEDUCED, log 3). -/
def State.overwritten (s : State) (a : Nat) : Bool :=
  ((s.cmd.queue.head?.map (·.overwritten)).getD []).contains a

/-- What offset `a` holds after a command writes `b` there: of its write and a host write made while it
executed either may come last (93_implementation_defined.md I14; DEDUCED, log 3). -/
def State.landed (s : State) (a : Nat) (b : Byte) : Byte :=
  if s.overwritten a && !Config.commandWritesLast s.tick a then s.bufByte a else b

/-- A host write to offset `a` races with what the queued command reads (20_memory.md R123). -/
def CmdEntry.racedAt (e : CmdEntry) (a : Nat) : Bool := e.raced.any fun c => c.1 == a

/-- A command before it in CMDQ writes the bytes `bs` from offset `a` on: where a host write races with a queued
command, the byte written and the byte present are both values it may still read, whichever of them lands
(20_memory.md R123; DEDUCED, log 3). -/
def CmdEntry.noteWritten (e : CmdEntry) (s : State) (a : Nat) (bs : List Byte) : CmdEntry :=
  { e with raced := (((bs.zipIdx a).filter fun p => e.racedAt p.2).flatMap fun p =>
      [(p.2, p.1), (p.2, s.bufByte p.2)]) ++ e.raced }

/-- `MemWrite(a, n, bs)` of a command (00_scope.md R17), noted with the queued commands. -/
def State.cmdWrite (s : State) (a : Nat) (bs : List Byte) : State :=
  { s.memWrite a ((bs.zipIdx a).map fun p => s.landed p.2 p.1) with
    cmd := { s.cmd with queue := s.cmd.queue.map fun e => e.noteWritten s a bs } }

/-! ## Events and counters -/

/-- `raise Event(c, info)` (60_exceptions.md R472). The block has no other exception entry (R475). -/
def State.raise (s : State) (c : Event) (info : Word) : State :=
  { s with ev :=
    { s.ev with
      irqStatus := s.ev.irqStatus ||| (1#25 <<< c.code)
      errCause := if c.isError then BitVec.ofNat 32 (256 + c.code) else s.ev.errCause
      errInfo := if c.isError then info else s.ev.errInfo } }

/-- A live counter increased by `n` modulo 2^32 (10_state.md R52). -/
def State.count (s : State) (i : Counter) (n : Word) : State := { s with live := s.live.add i n }

/-! ## The command queue -/

/-- If a DRAIN has become the head of CMDQ, the numbers of entries of MSCQ and SFQ it waits for are
recorded (46_control.md R441). -/
def State.noteDrain (s : State) : State :=
  match s.cmd.queue with
  | [] => s
  | e :: _ =>
    match decode e.desc with
    | .instr .drain =>
        { s with cmd := { s.cmd with drainM := s.q.mscq.length, drainS := s.q.sfq.length } }
    | _ => s

/-- The info of `CMD_DONE` and `CMD_ERR` (30_encoding.md R150): `result << 16 | seq`. -/
def completionInfo (r : ResultCode) (seq : BitVec 16) : Word := 0#12 ++ r.code ++ seq

/-- The registers of the command engine after the head entry `e` completes (30_encoding.md R150). -/
def CmdState.completed (k : CmdState) (e : CmdEntry) (rest : List CmdEntry) (r : ResultCode)
    (value : Word) : CmdState :=
  { k with result := value, lastResult := r, lastSeq := e.seq, done := true, queue := rest,
           held := none }

/-- The events and the counter of a completion (30_encoding.md R150). -/
def State.completionEvents (s : State) (r : ResultCode) (seq : BitVec 16) : State :=
  let s := s.raise .cmdDone (completionInfo r seq)
  if r.isError then (s.count .cmdErr 1).raise .cmdErr (completionInfo r seq) else s

/-- `complete(result, value)` of the command at the head of CMDQ (30_encoding.md R150); with CMDQ empty
there is no command to complete and nothing changes (DESIGN CHOICE, log 16). -/
def State.complete (s : State) (r : ResultCode) (value : Word) : State :=
  match s.cmd.queue with
  | [] => s
  | e :: rest =>
    ({ s with cmd := s.cmd.completed e rest r value }.completionEvents r e.seq).noteDrain

end Sys2Proof.Machine
end

