-- ==== Sys2Proof/Machine/Sync.lean ====
section
/-! DEFINITION. The steps of ACQ and SYNC: sample acquisition, the front end, null-symbol detection,
capture, symbol timing and frequency correction (40_sync_ofdm.md R200–R229). -/

namespace Sys2Proof.Machine

/-! ## ACQ (40_sync_ofdm.md R200, R202) -/

/-- The ACQ step (40_sync_ofdm.md R202); an agent that is not enabled takes none (46_control.md R454). -/
def State.acqStep (s : State) : State :=
  if !s.streaming || Config.sampqDepth ≤ s.q.sampq.length then s
  else
    match s.q.iqf with
    | i :: q :: rest =>
      { s with q := { s.q with iqf := rest, sampq := s.q.sampq ++ [sampleOfBytes Config.dsp i q] } }
    | _ => s

/-! ## The front end (40_sync_ofdm.md R203–R207) -/

/-- The mixed sample `y = x · e^(−jθ)`, θ before the sample's own increment (40_sync_ofdm.md R203,
R205). -/
def mixed (k : SyncState) (x : Cx Num) : Cx Num :=
  cxMul Config.dsp x (Config.dsp.cis (Config.dsp.neg k.theta))

/-- `(θ + 2π·(coarse·Δf + fine)/f_s) mod 2π` (40_sync_ofdm.md R203). -/
def nextTheta (k : SyncState) : Num :=
  let A := Config.dsp
  let f := A.add (A.mul (ofInt A k.coarse) (ofInt A carrierSpacing)) k.fine
  A.modTwoPi (A.add k.theta (A.div (A.timesTwoPi f) (ofInt A sampleRate)))

/-- `(1 − LEVEL_ALPHA)·lvl + LEVEL_ALPHA·e` (40_sync_ofdm.md R203, R206). -/
def nextLevel (k : SyncState) (e : Num) : Num :=
  let A := Config.dsp
  A.add (A.mul (A.sub (ofInt A 1) Config.levelAlpha) k.lvl) (A.mul Config.levelAlpha e)

/-- `take()` of the sample `x`, `rest` being left in SAMPQ, with L1-norm `e` (40_sync_ofdm.md R203). -/
def State.takeSample (s : State) (x : Cx Num) (rest : List (Cx Num)) : State :=
  let e := l1 Config.dsp (mixed s.sync x)
  let theta := nextTheta s.sync
  let lvl := nextLevel s.sync e
  { s with
    q := { s.q with sampq := rest }
    sync := { s.sync with theta := theta, lvl := lvl, nsArmed := true }
    meas := { s.meas with
      signalLevel := Config.dsp.toSingle lvl
      oscPhase := Config.dsp.toSingle theta } }

/-- `slide(e)` (40_sync_ofdm.md R207). -/
def SyncState.slide (k : SyncState) (e : Num) : SyncState :=
  let A := Config.dsp
  { k with
    envSum := A.add (A.sub k.envSum (k.env.getD k.envPtr numZero)) e
    env := k.env.set k.envPtr e
    envPtr := (k.envPtr + 1) % envWin }

/-- The window average `env_sum/50` (40_sync_ofdm.md R207). -/
def SyncState.average (k : SyncState) : Num := Config.dsp.div k.envSum (ofInt Config.dsp envWin)

/-- The null-entry decision: `env_sum/50 ≤ 0.5·lvl` (40_sync_ofdm.md R210, 90_conflicts.md C1). -/
def SyncState.nullEntered (k : SyncState) : Bool :=
  Config.dsp.le k.average (Config.dsp.mul (Config.dsp.dyadic 1 1) k.lvl)

/-- The null-exit decision: `env_sum/50 > 0.75·lvl` (40_sync_ofdm.md R210). -/
def SyncState.nullLeft (k : SyncState) : Bool :=
  Config.dsp.lt (Config.dsp.mul (Config.dsp.dyadic 3 2) k.lvl) k.average

/-! ## Restart and timeout (40_sync_ofdm.md R211, R212) -/

/-- An entry pushed to SYMQ. -/
def State.pushSymq (s : State) (e : SymEntry) : State :=
  { s with q := { s.q with symq := s.q.symq ++ [e] } }

/-- SYMQ has no room. -/
def State.symqFull (s : State) : Bool := Config.symqDepth ≤ s.q.symq.length

/-- The abandoned frame of a restart in SYMBOLS: its marker is pushed and `fseq` advances
(40_sync_ofdm.md R211). -/
def State.abortFrame (s : State) : State :=
  if s.sync.phase = .symbols then
    { s.pushSymq (.abort s.sync.fseq) with sync := { s.sync with fseq := s.sync.fseq + 1 } }
  else s

/-- SYNC abandons what it detected: level, oscillator phase and corrections are kept (40_sync_ofdm.md
R211). -/
def SyncState.restarted (k : SyncState) : SyncState :=
  { k with
    phase := .fill, fill := 0, envSum := numZero, envPtr := 0, c := 0, W := [], coarsePend := 0,
    P := cxZero }

/-- `restart()` (40_sync_ofdm.md R211). -/
def State.restart (s : State) : State :=
  { s.abortFrame with
    sync := s.abortFrame.sync.restarted
    meas := { s.abortFrame.meas with frameLock := false } }

/-- `timeout()` (40_sync_ofdm.md R212). -/
def State.syncTimeoutStep (s : State) : State :=
  ((s.count .syncTimeout 1).raise .syncTimeout (BitVec.ofNat 32 s.sync.phase.code)).restart

/-! ## Symbols and the end of a frame (40_sync_ofdm.md R220–R227) -/

/-- The fold of a fine correction beyond half a carrier into the coarse one (40_sync_ofdm.md R226). -/
def foldCorrection (coarse : Int) (fine : Num) : Int × Num :=
  let A := Config.dsp
  let half := ofInt A (carrierSpacing / 2)
  if A.lt half fine then (coarse + 1, A.sub fine (ofInt A carrierSpacing))
  else if A.lt fine (A.neg half) then (coarse - 1, A.add fine (ofInt A carrierSpacing))
  else (coarse, fine)

/-- `clamp(coarse, −1024, 1023)` (40_sync_ofdm.md R226). -/
def clampCoarse (c : Int) : Int := min 1023 (max (-1024) c)

/-- The corrections after a completed frame (40_sync_ofdm.md R225–R227). -/
def frameCorrection (k : SyncState) : Int × Num :=
  let A := Config.dsp
  let fine := A.add k.fine (A.mul Config.fineGain (residual A k.P))
  let r := foldCorrection (k.coarse + k.coarsePend) fine
  (clampCoarse r.1, r.2)

/-- The corrections of a completed frame, and their registers (40_sync_ofdm.md R227). -/
def State.correctFrame (s : State) : State :=
  let r := frameCorrection s.sync
  { s with
    sync := { s.sync with coarse := r.1, fine := r.2 }
    meas := { s.meas with
      coarseCorr := BitVec.ofInt 32 r.1
      fineCorr := Config.dsp.toSingle r.2
      frameCount := s.meas.frameCount + 1
      frameLock := true } }

/-- The next frame's null detection (40_sync_ofdm.md R227). -/
def SyncState.nextFrame (k : SyncState) : SyncState :=
  { k with
    fseq := k.fseq + 1, coarsePend := 0, P := cxZero, phase := .fill, fill := 0, envSum := numZero,
    envPtr := 0 }

/-- `frame_end()` (40_sync_ofdm.md R227). -/
def State.frameEnd (s : State) : State :=
  let t := (s.correctFrame.count .frames 1).raise .frameDone s.sync.fseq
  { t with sync := t.sync.nextFrame }

/-- The estimates a completed symbol adds to: the coarse one at symbol 1, the guard correlation from symbol
2 on (40_sync_ofdm.md R221). -/
def SyncState.estimate (k : SyncState) : SyncState :=
  { k with
    coarsePend :=
      if k.l = 1 then coarseEst Config.dsp Config.coarseRange (fft Config.dsp k.S) else k.coarsePend
    P := if 2 ≤ k.l then cxAdd Config.dsp k.P (guardCorrelation Config.dsp k.S k.G) else k.P }

/-- The next symbol starts with its guard (40_sync_ofdm.md R221). -/
def SyncState.nextSymbol (k : SyncState) : SyncState := { k with l := k.l + 1, part := .guard, G := [] }

/-- The completed symbol pushed, and its estimates made (40_sync_ofdm.md R221). -/
def State.emitSymbol (s : State) : State :=
  { s.pushSymq (.symbol s.sync.fseq s.sync.l s.sync.S) with sync := s.sync.estimate }

/-- `symbol_done()` (40_sync_ofdm.md R221). -/
def State.symbolDone (s : State) : State :=
  if s.sync.l = symbolsPerFrame then s.emitSymbol.frameEnd
  else { s.emitSymbol with sync := s.emitSymbol.sync.nextSymbol }

/-- A sample of the useful part (40_sync_ofdm.md R220). -/
def State.usefulSample (s : State) (y : Cx Num) : State :=
  { s with sync := { s.sync with S := s.sync.S ++ [y] } }

/-- The SYMBOLS step on the mixed sample `y` (40_sync_ofdm.md R220). -/
def State.symbolSample (s : State) (y : Cx Num) : State :=
  match s.sync.part with
  | .guard =>
    if s.sync.G.length + 1 = Tg then
      { s with sync := { s.sync with G := s.sync.G ++ [y], part := .useful, S := [] } }
    else { s with sync := { s.sync with G := s.sync.G ++ [y] } }
  | .useful =>
    if s.sync.S.length + 1 = Tu then (s.usefulSample y).symbolDone else s.usefulSample y

/-- The SYMBOLS step about to be taken completes a symbol, and so pushes to SYMQ. -/
def SyncState.completesSymbol (k : SyncState) : Bool :=
  k.part == .useful && k.S.length + 1 == Tu

/-! ## Capture (40_sync_ofdm.md R218, R219) -/

/-- The parameters of FindIndex (00_scope.md R13). -/
def findParams : FindParams := ⟨Config.binSize, Config.topK, Config.nearDist⟩

/-- FindIndex failed (40_sync_ofdm.md R219): bit 31 of `LAST_INDEX` is cleared, its other bits stay. -/
def State.peakFailed (s : State) : State :=
  let t := { s with meas := { s.meas with lastIndex := s.meas.lastIndex &&& 0x7FFFFFFF } }
  ((t.count .peakFail 1).raise .peakFail 0).restart

/-- FindIndex found `d`: the rest of W starts symbol 1 (40_sync_ofdm.md R219). -/
def State.startSymbols (s : State) (d : Nat) : State :=
  { s with
    meas := { s.meas with lastIndex := 0x80000000 ||| BitVec.ofNat 32 d }
    sync := { s.sync with
      d := d, S := s.sync.W.drop d, l := 1, part := .useful, P := cxZero, coarsePend := 0,
      phase := .symbols } }

/-- `capture_done()` with the result of FindIndex on W (40_sync_ofdm.md R219). With d = 0 the step must
push symbol 1, and holds while SYMQ is full (R210). -/
def State.captureDone (s : State) : State :=
  match findIndex Config.dsp findParams s.sync.W with
  | none => s.peakFailed
  | some d =>
    if (s.sync.W.drop d).length = Tu then
      if s.symqFull then s else (s.startSymbols d).symbolDone
    else s.startSymbols d

/-! ## The steps of SYNC (40_sync_ofdm.md R210, R229) -/

/-- The FILL step: the window takes a sample of L1-norm `e` (40_sync_ofdm.md R210). -/
def SyncState.fillWith (k : SyncState) (e : Num) : SyncState :=
  { k with env := k.env.set k.fill e, envSum := Config.dsp.add k.envSum e, fill := k.fill + 1 }

/-- The mixed sample `y` and its L1-norm `e` in each phase that consumes it (40_sync_ofdm.md R210). -/
def State.consume (s : State) (y : Cx Num) : State :=
  let e := l1 Config.dsp y
  match s.sync.phase with
  | .idle => s
  | .fill =>
    if s.sync.fill + 1 = envWin then
      { s with sync := { s.sync.fillWith e with phase := .nullSearch, c := 0, envPtr := 0 } }
    else { s with sync := s.sync.fillWith e }
  | .nullSearch => { s with sync := { s.sync.slide e with c := s.sync.c + 1 } }
  | .nullExit => { s with sync := { s.sync.slide e with c := s.sync.c + 1 } }
  | .capture => { s with sync := { s.sync with W := s.sync.W ++ [y] } }
  | .symbols => s.symbolSample y

/-- A SYNC step that consumes a sample: it holds while SAMPQ is empty, and, when it must push, while SYMQ
is full (40_sync_ofdm.md R210). -/
def State.sampleStep (s : State) : State :=
  if s.sync.phase = .symbols && s.sync.completesSymbol && s.symqFull then s
  else
    match s.q.sampq with
    | [] => s
    | x :: rest => (s.takeSample x rest).consume (mixed s.sync x)

/-- The SYNC step (40_sync_ofdm.md R210); an agent that is not enabled takes none (46_control.md R454). -/
def State.syncStep (s : State) : State :=
  if !s.streaming then s
  else
    match s.sync.phase with
    | .idle =>
      { s with sync := { s.sync with phase := .fill, fill := 0, envSum := numZero, envPtr := 0 } }
    | .fill => s.sampleStep
    | .nullSearch =>
      if s.sync.nullEntered then { s with sync := { s.sync with phase := .nullExit, c := 0 } }
      else if s.sync.c = syncTimeout then s.syncTimeoutStep
      else s.sampleStep
    | .nullExit =>
      if s.sync.nullLeft then { s with sync := { s.sync with phase := .capture, W := [] } }
      else if s.sync.c = syncTimeout then s.syncTimeoutStep
      else s.sampleStep
    | .capture => if s.sync.W.length < Tu then s.sampleStep else s.captureDone
    | .symbols => s.sampleStep

/-- `nosample()` is enabled (40_sync_ofdm.md R229, 90_conflicts.md C14); in SYMBOLS it must push the
marker of the abandoned frame, so it also needs room in SYMQ (R210; DEDUCED, log 21). -/
def State.nosampleEnabled (s : State) : Bool :=
  s.streaming && s.sync.phase != .idle && s.q.sampq.isEmpty && s.q.iqf.length < 2
    && s.sync.nsArmed && !s.ctl.finishReq && !(s.sync.phase == .symbols && s.symqFull)

/-- `nosample()` (40_sync_ofdm.md R229). -/
def State.nosampleStep (s : State) : State :=
  if s.nosampleEnabled then
    let t := (s.count .nosample 1).raise .nosample (BitVec.ofNat 32 s.sync.phase.code)
    { t with sync := { t.sync with nsArmed := false } }.restart
  else s

end Sys2Proof.Machine
end

