-- ==== Sys2Proof/Machine/Demod.lean ====
section
/-! DEFINITION. The step of DEMOD: the transform of a symbol, its soft bits, and their routing to FICQ and
MSCQ (40_sync_ofdm.md R230–R244). -/

namespace Sys2Proof.Machine

/-- Soft bits of one symbol (40_sync_ofdm.md R235). -/
def symbolBits : Nat := 2 * carriers

/-- The FIC record of frame `f`: 2305 words (40_sync_ofdm.md R244). -/
def ficRecord (f : Word) (soft : List SoftBit) : List Word :=
  (0xF1#8 ++ f.extractLsb' 0 24) ::
    wordsOfBytes ((List.range (3 * symbolBits)).map fun i => soft.getD i 0)

/-- `fic_emit(f)` (40_sync_ofdm.md R244): DEMOD never holds on FICQ. -/
def State.ficEmit (s : State) (f : Word) : State :=
  if s.q.ficq.length < Config.ficqDepth then
    let r := ficRecord f s.demod.fic.flatten
    ({ s with q := { s.q with ficq := s.q.ficq ++ [r] } }.count .ficBlocks 1).raise .ficReady f
  else (s.count .ficDrop 1).raise .ficDrop f

/-- The fragment of the selection `a` in the soft bits of a CIF (40_sync_ofdm.md R242). -/
def cifFragment (a : Selection) (cif : List SoftBit) : List SoftBit :=
  (List.range (64 * a.sizeCu.toNat)).map fun i => cif.getD (64 * a.startCu.toNat + i) 0

/-- `cif_emit(a)` (40_sync_ofdm.md R242). -/
def State.cifEmit (s : State) (a : Selection) : State :=
  if a.valid then
    { s with q := { s.q with mscq :=
      s.q.mscq ++ [(a.generation, cifFragment a s.demod.cif.flatten)] } }
  else s

/-- The CIF symbols of one CIF (40_sync_ofdm.md R238). -/
def cifSymbols : Nat := 18

/-- The accumulation of a frame starts anew: at its symbol 1 and at an ABORT (40_sync_ofdm.md R230). -/
def DemodState.cleared (m : DemodState) : DemodState := { m with fic := [], cif := [], cifNum := 0 }

/-- Symbol `l` = 2, 3, 4 of frame `f`: FIC soft bits `b` (40_sync_ofdm.md R230). -/
def State.ficSymbol (s : State) (f : Word) (l : Nat) (b : List SoftBit) : State :=
  let t := { s with demod := { s.demod with fic := s.demod.fic.take (l - 2) ++ [b] } }
  if l = 4 then t.ficEmit f else t

/-- The soft bits `b` of a symbol appended to the CIF (40_sync_ofdm.md R230). -/
def State.storeCif (s : State) (b : List SoftBit) : State :=
  { s with demod := { s.demod with cif := s.demod.cif ++ [b] } }

/-- The next CIF starts (40_sync_ofdm.md R230, R238). -/
def DemodState.nextCif (m : DemodState) : DemodState := { m with cif := [], cifNum := (m.cifNum + 1) % 4 }

/-- A symbol of a CIF, its soft bits `b` (40_sync_ofdm.md R230, R238). -/
def State.cifSymbol (s : State) (a : Selection) (b : List SoftBit) : State :=
  if s.demod.cif.length + 1 = cifSymbols then
    let t := (s.storeCif b).cifEmit a
    { t with demod := t.demod.nextCif }
  else s.storeCif b

/-- The DEMOD step on a popped symbol `(f, l, samples)` (40_sync_ofdm.md R230). -/
def State.demodSymbol (s : State) (f : Word) (l : Nat) (samples : List (Cx Num)) : State :=
  let z := fft Config.dsp samples
  if l = 1 then
    { s with demod := { s.demod.cleared with zprev := z, zvalid := true, dfseq := f } }
  else if !s.demod.zvalid || f != s.demod.dfseq then s
  else
    let b := softBits Config.dsp Config.softScale s.demod.zprev z
    let t := { s with demod := { s.demod with zprev := z } }
    if 2 ≤ l && l ≤ 4 then t.ficSymbol f l b else t.cifSymbol s.sel.act b

/-- The DEMOD step on this entry would push to MSCQ (40_sync_ofdm.md R230, R242). -/
def State.demodPushes (s : State) (e : SymEntry) : Bool :=
  match e with
  | .abort _ => false
  | .symbol f l _ =>
    l != 1 && s.demod.zvalid && f == s.demod.dfseq && !(2 ≤ l && l ≤ 4)
      && s.demod.cif.length + 1 == cifSymbols && s.sel.act.valid

/-- An entry of SYMQ (40_sync_ofdm.md R230). -/
def State.demodEntry (s : State) (e : SymEntry) : State :=
  match e with
  | .abort _ => { s with demod := { s.demod.cleared with zvalid := false } }
  | .symbol f l samples => s.demodSymbol f l samples

/-- The DEMOD step (40_sync_ofdm.md R230); an agent that is not enabled takes none (46_control.md R454). -/
def State.demodStep (s : State) : State :=
  if !s.streaming then s
  else
    match s.q.symq with
    | [] => s
    | e :: rest =>
      if s.demodPushes e && Config.mscqDepth ≤ s.q.mscq.length then s
      else { s with q := { s.q with symq := rest } }.demodEntry e

end Sys2Proof.Machine
end

