-- ==== Sys2Proof/Machine/Operands.lean ====
section
/-! DEFINITION. The operands of commands: legal PARAM values, BUF regions, and the order of the checks
(30_encoding.md R141, R142, R152; 20_memory.md R112). -/

namespace Sys2Proof.Machine

/-- An operand region is aligned to `align` bytes and lies wholly inside BUF (20_memory.md R112,
30_encoding.md R143, R152). -/
def regionOk (off len align : Nat) : Bool := off % align == 0 && off + len ≤ bufBytes

/-- The bytes of a vector of `Tu` complex samples (20_memory.md R106). -/
def spectrumBytes : Nat := 8 * Tu

/-- `CUR` of `DDEMOD` has a legal value: a multiple of 8 (30_encoding.md R142; DEDUCED, log 7). -/
def curLegal (cur : BufOffset) : Bool := cur.toNat % 8 == 0

/-- `N` of `VITDEC` has a legal value (30_encoding.md R142). -/
def vitLegal (n : BitVec 20) : Bool := 1 ≤ n.toNat

/-- (PROFILE, LEVEL, BITRATE) is a row of 42_eep_dispersal.md R302: for A, BITRATE = 8·n, for B,
BITRATE = 32·n, with n ≥ 1 (30_encoding.md R142). -/
def bitrateLegal (p : Profile) (bitrate : Nat) : Bool :=
  match p with
  | .A => bitrate % 8 == 0 && 8 ≤ bitrate
  | .B => bitrate % 32 == 0 && 32 ≤ bitrate

/-- `NBITS` of `DESCR` has a legal value (30_encoding.md R142). -/
def descrLegal (nbits : BitVec 21) : Bool := 1 ≤ nbits.toNat

/-- `S` of `SFCHK` has a legal value (30_encoding.md R142). -/
def sfchkLegal (cw : BitVec 8) : Bool := 1 ≤ cw.toNat

/-- `NBYTES` of `CRC16` has a legal value (30_encoding.md R142). -/
def crcLegal (nbytes : BitVec 19) : Bool := nbytes.toNat ≤ 262144

/-- One step of CMD on the command at the head of CMDQ, for a command that never waits: the checks of
30_encoding.md R152 in their order, and, when they pass, `run`. With CMDQ empty nothing happens
(DESIGN CHOICE, log 16). -/
def State.runCommand (s : State) (paramOk regionsOk : Bool) (run : State) : State :=
  if s.cmd.queue.isEmpty then s
  else if !paramOk then s.complete .badDesc 0
  else if !regionsOk then s.complete .badAddr 0
  else run

end Sys2Proof.Machine
end

