-- ==== Sys2Proof/Machine/CmdControl.lean ====
section
/-! DEFINITION. The commands that do not compute on data: NOP, DRAIN, INJMSC, INJSF (46_control.md
R440–R443). -/

namespace Sys2Proof.Machine

/-- `NOP` (46_control.md R440). -/
def execNop (s : State) : Host.Outcome State Fault Refusal :=
  .next (s.runCommand true true (s.complete .ok 0))

/-- `DRAIN` (46_control.md R441): it waits, the state unchanged, while entries it counted are not
processed and there is no stop. -/
def execDrain (s : State) : Host.Outcome State Fault Refusal :=
  .next (s.runCommand true true (
    if s.cmd.drainM = 0 ∧ s.cmd.drainS = 0 then s.complete .ok 0
    else if s.ctl.stopReq then s.complete .aborted 0
    else s))

/-- The command past its checks, `a` being the copy of `act` they read: it ends with `ABORTED` after a
stop, waits while the queue is full, and else pushes (46_control.md R442, R443). -/
def State.inject (s : State) (a : Selection) (full : Bool) (pushed : State) (value : Nat) : State :=
  if s.ctl.stopReq then s.complete .aborted 0
  else if full then { s with cmd := { s.cmd with held := some a } }
  else pushed.complete .ok (BitVec.ofNat 32 value)

/-- An injecting command: checked against `act` when it is first tried, and later held to the copy read
then (30_encoding.md R152, 46_control.md R442; DEDUCED, log 10). `len` is the length of its operand. -/
def State.injectCommand (s : State) (src : BufOffset) (len : Selection → Nat) (full : Bool)
    (pushed : Selection → State) : State :=
  match s.cmd.held with
  | some a => s.inject a full (pushed a) (len a)
  | none =>
    if !s.sel.act.valid then s.complete .noSubch 0
    else
      s.runCommand true (regionOk src.toNat (len s.sel.act) 1)
        (s.inject s.sel.act full (pushed s.sel.act) (len s.sel.act))

/-- The number of soft bits of a fragment: 64 a capacity unit (46_control.md R442). -/
def fragmentLength (a : Selection) : Nat := 64 * a.sizeCu.toNat

/-- The number of bytes of a CIF payload (46_control.md R443, 00_scope.md R12). -/
def payloadLength (a : Selection) : Nat := 3 * a.bitrate.toNat

/-- `INJMSC src` (46_control.md R442). -/
def execInjmsc (src : BufOffset) (s : State) : Host.Outcome State Fault Refusal :=
  .next (s.runCommand true true (
    s.injectCommand src fragmentLength (Config.mscqDepth ≤ s.q.mscq.length) fun a =>
      { s with q := { s.q with mscq :=
        s.q.mscq ++ [(a.generation, s.memRead src.toNat (fragmentLength a))] } }))

/-- `INJSF src` (46_control.md R443). -/
def execInjsf (src : BufOffset) (s : State) : Host.Outcome State Fault Refusal :=
  .next (s.runCommand true true (
    s.injectCommand src payloadLength (Config.sfqDepth ≤ s.q.sfq.length) fun a =>
      { s with q := { s.q with sfq :=
        s.q.sfq ++ [(a.generation, s.memRead src.toNat (payloadLength a))] } }))

end Sys2Proof.Machine
end

