-- ==== Sys2Proof/Machine/Eep.lean ====
section
/-! DEFINITION. The EEP de-puncturer and the energy-dispersal descrambler (42_eep_dispersal.md
R300–R311). -/

namespace Sys2Proof.Machine

/-! ## Puncturing vectors (42_eep_dispersal.md R300, R301) -/

/-- PI_1 … PI_24, bit `j` of the pattern (left to right) in bit `31 − j` of the word. -/
def punctureWords : List Word :=
  [
   0xC8888888, 0xC888C888, 0xC8C8C888, 0xC8C8C8C8, 0xCCC8C8C8, 0xCCC8CCC8,
   0xCCCCCCC8, 0xCCCCCCCC, 0xECCCCCCC, 0xECCCECCC, 0xECECECCC, 0xECECECEC,
   0xEEECECEC, 0xEEECEEEC, 0xEEEEEEEC, 0xEEEEEEEE, 0xFEEEEEEE, 0xFEEEFEEE,
   0xFEFEFEEE, 0xFEFEFEFE, 0xFFFEFEFE, 0xFFFEFFFE, 0xFFFFFFFE, 0xFFFFFFFF]

/-- The pattern PI_x, x = 1…24: 32 bits, left to right. -/
def punctureVector (x : Nat) : List Bool :=
  (List.range 32).map fun j => (punctureWords.getD (x - 1) 0).getLsbD (31 - j)

/-- The tail vector V_T: 24 bits. -/
def tailVector : List Bool := (List.replicate 6 [true, true, false, false]).flatten

/-! ## EEP parameters (42_eep_dispersal.md R302) -/

/-- A row of the table of 42_eep_dispersal.md R302. -/
structure EepRow where
  l1 : Nat
  l2 : Nat
  pi1 : Nat
  pi2 : Nat
  size : Nat
deriving DecidableEq, Repr

/-- The EEP parameters of (profile, level, bitrate), the level 1…4 (42_eep_dispersal.md R302). -/
def eepRow (p : Profile) (level bitrate : Nat) : EepRow :=
  match p with
  | .A =>
    let n := bitrate / 8
    match level with
    | 1 => ⟨6 * n - 3, 3, 24, 23, 12 * n⟩
    | 2 => if n = 1 then ⟨5, 1, 13, 12, 8⟩ else ⟨2 * n - 3, 4 * n + 3, 14, 13, 8 * n⟩
    | 3 => ⟨6 * n - 3, 3, 8, 7, 6 * n⟩
    | _ => ⟨4 * n - 3, 2 * n + 3, 3, 2, 4 * n⟩
  | .B =>
    let n := bitrate / 32
    match level with
    | 1 => ⟨24 * n - 3, 3, 10, 9, 27 * n⟩
    | 2 => ⟨24 * n - 3, 3, 6, 5, 21 * n⟩
    | 3 => ⟨24 * n - 3, 3, 4, 3, 18 * n⟩
    | _ => ⟨24 * n - 3, 3, 2, 1, 15 * n⟩

/-- The mask M of a row: PI1 4·L1 times, PI2 4·L2 times, then V_T (42_eep_dispersal.md R303). -/
def punctureMask (r : EepRow) : List Bool :=
  (List.replicate (4 * r.l1) (punctureVector r.pi1)).flatten
    ++ (List.replicate (4 * r.l2) (punctureVector r.pi2)).flatten ++ tailVector

/-- The soft bits spread over the ones of a mask, zeros where it is 0 (42_eep_dispersal.md R303). -/
def spreadSoft : List Bool → List SoftBit → List SoftBit
  | [], _ => []
  | false :: m, xs => 0 :: spreadSoft m xs
  | true :: m, [] => 0 :: spreadSoft m []
  | true :: m, x :: xs => x :: spreadSoft m xs

/-- `Depuncture(x, profile, level, B)` (42_eep_dispersal.md R303). -/
def depuncture (x : List SoftBit) (p : Profile) (level bitrate : Nat) : List SoftBit :=
  spreadSoft (punctureMask (eepRow p level bitrate)) x

/-! ## Energy dispersal (42_eep_dispersal.md R310, R311) -/

/-- `n` bits of the PRBS from the register `r`, whose stage `k` is bit `k − 1` (42_eep_dispersal.md
R310). -/
def prbsFrom : Nat → BitVec 9 → List Bool
  | 0, _ => []
  | n + 1, r =>
    let p := r.getLsbD 8 ^^ r.getLsbD 4
    p :: prbsFrom n ((r <<< 1) ||| (if p then 1 else 0))

/-- The first `n` bits of the PRBS: every stage starts 1 (42_eep_dispersal.md R310). -/
def prbs (n : Nat) : List Bool := prbsFrom n (BitVec.allOnes 9)

/-- `Dedisperse(b)` (42_eep_dispersal.md R311). -/
def dedisperse (b : List Bool) : List Bool := b.zipWith (· ^^ ·) (prbs b.length)

end Sys2Proof.Machine
end

