-- ==== Sys2Proof/Machine/ReedSolomon.lean ====
section
/-! DEFINITION. GF(256) and the Reed–Solomon (120,110) decoder (43_reed_solomon.md R340–R346). A
polynomial is the list of its coefficients, the lowest degree first. -/

namespace Sys2Proof.Machine

/-! ## GF(256) (43_reed_solomon.md R340) -/

/-- `α · b`, reduced by the field polynomial 0x11D. -/
def gfDouble (b : Byte) : Byte := (b <<< 1) ^^^ (if b.msb then 0x1D else 0)

/-- The product of `a` with the `n` low bits of `b`. -/
def gfMulLow : Nat → Byte → Byte → Byte
  | 0, _, _ => 0
  | n + 1, a, b => (if b.getLsbD 0 then a else 0) ^^^ gfMulLow n (gfDouble a) (b >>> 1)

/-- The product in GF(256). -/
def gfMul (a b : Byte) : Byte := gfMulLow 8 a b

/-- `a², a⁴, …`: the product of `a^(2^1) … a^(2^n)`. -/
def gfSquares : Nat → Byte → Byte
  | 0, _ => 1
  | n + 1, a => gfMul (gfMul a a) (gfSquares n (gfMul a a))

/-- The inverse: `a^254` (43_reed_solomon.md R340: exponents are modulo 255). -/
def gfInv (a : Byte) : Byte := gfSquares 7 a

/-- `a, α·a, α²·a, …`: `n` elements. -/
def gfPowersFrom : Nat → Byte → List Byte
  | 0, _ => []
  | n + 1, a => a :: gfPowersFrom n (gfDouble a)

/-- α^0 … α^254. -/
def gfPowers : List Byte := gfPowersFrom 255 1

/-! ## Polynomials -/

/-- The sum of two polynomials. -/
def polyAdd : List Byte → List Byte → List Byte
  | [], q => q
  | p, [] => p
  | a :: p, b :: q => (a ^^^ b) :: polyAdd p q

/-- The product with a constant. -/
def polyScale (k : Byte) (p : List Byte) : List Byte := p.map (gfMul k)

/-- The product of two polynomials. -/
def polyMul : List Byte → List Byte → List Byte
  | [], _ => []
  | a :: p, q => polyAdd (polyScale a q) (0 :: polyMul p q)

/-- The value at `x`. -/
def polyEval : List Byte → Byte → Byte
  | [], _ => 0
  | a :: p, x => a ^^^ gfMul x (polyEval p x)

/-- A polynomial without its leading zero coefficients. -/
def polyTrim (p : List Byte) : List Byte := (p.reverse.dropWhile (· == 0)).reverse

/-- The formal derivative: the coefficients of odd degree, each one degree lower. -/
def polyDerivative (p : List Byte) : List Byte :=
  (p.zipIdx.map fun c => if c.2 % 2 = 1 then c.1 else 0).drop 1

/-! ## The code (43_reed_solomon.md R341, R342) -/

/-- The length of a block (43_reed_solomon.md R341). -/
def rsLength : Nat := 120

/-- The number of parity symbols of a block (43_reed_solomon.md R341). -/
def rsParity : Nat := 10

/-- `r(x)` at `x`: byte `i` of the block is the coefficient of `x^(119 − i)` (43_reed_solomon.md R341). -/
def blockEval (r : List Byte) (x : Byte) : Byte := r.foldl (fun acc b => gfMul acc x ^^^ b) 0

/-- The syndromes `S_i = r(α^i)`, i = 0…9 (43_reed_solomon.md R342). -/
def syndromes (r : List Byte) : List Byte := (gfPowersFrom rsParity 1).map (blockEval r)

/-- A block is a codeword when every syndrome is 0 (43_reed_solomon.md R342). -/
def isCodeword (r : List Byte) : Bool := (syndromes r).all (· == 0)

/-- The number of byte positions where two blocks differ (43_reed_solomon.md R343). -/
def hammingDistance (r c : List Byte) : Nat := ((r.zip c).filter fun p => p.1 != p.2).length

/-! ## Berlekamp–Massey, Chien and Forney (43_reed_solomon.md R344) -/

/-- The state of the Berlekamp–Massey iteration: the connection polynomial, the one before its last
length change with its discrepancy, the LFSR length, and the gap since that change. -/
structure LfsrState where
  conn : List Byte
  prev : List Byte
  len : Nat
  gap : Nat
  prevDisc : Byte
deriving DecidableEq, Repr

/-- The discrepancy `Σ_{i=0}^{L} Λ_i·S_{n−i}`, where `past` is S_n, S_{n−1}, …. -/
def discrepancy (conn past : List Byte) (len : Nat) : Byte :=
  (((conn.take (len + 1)).zip past).map fun p => gfMul p.1 p.2).foldl (· ^^^ ·) 0

/-- One iteration of Berlekamp–Massey, for syndrome number `n`. -/
def lfsrStep (s : LfsrState) (n : Nat) (past : List Byte) : LfsrState :=
  let d := discrepancy s.conn past s.len
  let next := polyAdd s.conn
    (polyScale (gfMul d (gfInv s.prevDisc)) (List.replicate s.gap 0 ++ s.prev))
  if d = 0 then { s with gap := s.gap + 1 }
  else if 2 * s.len ≤ n then
    { conn := next, prev := s.conn, len := n + 1 - s.len, gap := 1, prevDisc := d }
  else { s with conn := next, gap := s.gap + 1 }

/-- The iteration over the syndromes `todo`, number `n` the next, those before it in `past`, the latest
first. -/
def lfsrRun : LfsrState → Nat → List Byte → List Byte → LfsrState
  | s, _, _, [] => s
  | s, n, past, x :: todo => lfsrRun (lfsrStep s n (x :: past)) (n + 1) (x :: past) todo

/-- `BerlekampMassey(S)`: the shortest LFSR that generates the syndromes. -/
def berlekampMassey (s : List Byte) : LfsrState :=
  lfsrRun { conn := [1], prev := [1], len := 0, gap := 1, prevDisc := 1 } 0 [] s

/-- The roots `x = α^i` of Λ, each with its block position `j = i − 1 mod 255`, 0…254: Chien search over
all 255 positions (43_reed_solomon.md R344: `Λ(α^−(254 − j)) = 0`). -/
def locatorRoots (conn : List Byte) : List (Nat × Byte) :=
  (gfPowers.zipIdx.filter fun p => polyEval conn p.1 == 0).map fun p => ((p.2 + 254) % 255, p.1)

/-- The error value at the root `x = X⁻¹`: `X·Ω(X⁻¹)/Λ'(X⁻¹)` (Forney, first root 0). -/
def errorValue (conn omega : List Byte) (x : Byte) : Byte :=
  gfMul (gfMul (gfInv x) (polyEval omega x)) (gfInv (polyEval (polyDerivative conn) x))

/-- The block with the errors at the roots corrected, position `j` being block byte `j − 135`. -/
def correctErrors (conn omega : List Byte) (r : List Byte) (roots : List (Nat × Byte)) : List Byte :=
  roots.foldl (fun b p =>
    b.set (p.1 - 135) (b.getD (p.1 - 135) 0 ^^^ errorValue conn omega p.2)) r

/-- `RSDecode(r)` by the algorithm of 43_reed_solomon.md R344, its result checked against R343: the
corrected block and the number of corrections, or none for UNCORRECTABLE (DEDUCED, log 13). -/
def rsDecode (r : List Byte) : Option (List Byte × Nat) :=
  let s := syndromes r
  if s.all (· == 0) then some (r, 0)
  else
    let bm := berlekampMassey s
    let conn := polyTrim bm.conn
    let v := conn.length - 1
    let roots := locatorRoots conn
    let c := correctErrors conn ((polyMul s conn).take rsParity) r roots
    if v ≤ 5 && v == bm.len && roots.length == v && roots.all (fun p => 135 ≤ p.1)
        && isCodeword c && hammingDistance r c == v
    then some (c, v)
    else none

/-- The block `RSDecode` leaves: the corrected one, or the input when it is uncorrectable. -/
def rsBlock (r : List Byte) : List Byte := ((rsDecode r).map (·.1)).getD r

end Sys2Proof.Machine
end

