-- ==== Sys2Proof/Machine/Viterbi.lean ====
section
/-! DEFINITION. The convolutional code and the Viterbi decoder (41_viterbi.md R270–R278). Metrics are
unbounded, `none` standing for ∞ (R275, 93_implementation_defined.md I9; DEDUCED, log 12). -/

namespace Sys2Proof.Machine

/-! ## The code -/

/-- The four output bits of the step with input `a` from state `p`, whose bit `m − 1` is the input `m`
steps back (41_viterbi.md R270, R272). -/
def convOutput (p : Nat) (a : Bool) : List Bool :=
  let b := fun m => p.testBit (m - 1)
  let x0 := a ^^ b 2 ^^ b 3 ^^ b 5 ^^ b 6
  [x0, a ^^ b 1 ^^ b 2 ^^ b 3 ^^ b 6, a ^^ b 1 ^^ b 4 ^^ b 6, x0]

/-- The successor state `((p << 1) | a) mod 64` (41_viterbi.md R272). -/
def convNext (p : Nat) (a : Bool) : Nat := (2 * p + a.toNat) % 64

/-- The mother code bits of a sequence of inputs, from state `p` on (41_viterbi.md R271). -/
def convFrom : Nat → List Bool → List Bool
  | _, [] => []
  | p, a :: as => convOutput p a ++ convFrom (convNext p a) as

/-- The mother codeword of a payload: 6 zero tail bits appended (41_viterbi.md R271). -/
def convEncode (payload : List Bool) : List Bool := convFrom 0 (payload ++ List.replicate 6 false)

/-! ## Metrics -/

/-- `v = clamp(s + 127, 0, 255)` (41_viterbi.md R273). -/
def softValue (s : SoftBit) : Nat := (min 255 (max 0 (s.toInt + 127))).toNat

/-- The mapped soft values of each of `steps` trellis steps, four a step (41_viterbi.md R271, R273). -/
def softSteps (soft : List SoftBit) (steps : Nat) : List (List Nat) :=
  (List.range steps).map fun t => ((soft.drop (4 * t)).take 4).map softValue

/-- `bm(p, a)` against the soft values of the step (41_viterbi.md R274). -/
def branchMetric (v : List Nat) (p : Nat) (a : Bool) : Nat :=
  ((convOutput p a).zip v).foldl (fun sum x => sum + if x.1 then 255 - x.2 else x.2) 0

/-- A path metric: `none` is ∞ (41_viterbi.md R275). -/
abbrev Metric := Option Nat

/-- `a < b`, with ∞ < ∞ false (41_viterbi.md R275). -/
def metricLt : Metric → Metric → Bool
  | some a, some b => a < b
  | some _, none => true
  | none, _ => false

/-- The initial metrics: 0 for state 0, ∞ for the others (41_viterbi.md R275). -/
def initialMetrics : List Metric := some 0 :: List.replicate 63 none

/-- Add, compare and select for state `ns`: its metric, and whether predecessor p1 was chosen
(41_viterbi.md R275). -/
def selectPredecessor (pm : List Metric) (v : List Nat) (ns : Nat) : Metric × Bool :=
  let a := ns % 2 == 1
  let p0 := ns / 2
  let p1 := ns / 2 + 32
  let m0 := (pm.getD p0 none).map (· + branchMetric v p0 a)
  let m1 := (pm.getD p1 none).map (· + branchMetric v p1 a)
  if metricLt m1 m0 then (m1, true) else (m0, false)

/-- One trellis step for all 64 states (41_viterbi.md R275). -/
def trellisStep (pm : List Metric) (v : List Nat) : List (Metric × Bool) :=
  (List.range 64).map (selectPredecessor pm v)

/-- The least metric. -/
def leastMetric (pm : List Metric) : Metric :=
  pm.foldl (fun m x => if metricLt x m then x else m) none

/-- Renormalisation with threshold `limit` (41_viterbi.md R276); `none` never renormalises. -/
def renormalise (limit : Option Nat) (pm : List Metric) : List Metric :=
  match limit, leastMetric pm with
  | some t, some least => if t < least then pm.map fun m => m.map (· - least) else pm
  | _, _ => pm

/-- The decisions of all trellis steps, from the metrics `pm` on (41_viterbi.md R275, R276). -/
def trellis (limit : Option Nat) : List Metric → List (List Nat) → List (List Bool)
  | _, [] => []
  | pm, v :: vs =>
    let sel := trellisStep pm v
    sel.map (·.2) :: trellis limit (renormalise limit (sel.map (·.1))) vs

/-! ## Traceback -/

/-- The walk back over the decisions, the last step first, from state `σ`: the input bits of the steps in
order, before `tail` (41_viterbi.md R277). -/
def traceback : Nat → List (List Bool) → List Bool → List Bool
  | _, [], tail => tail
  | σ, dec :: decs, tail =>
    traceback (σ / 2 + if dec.getD σ false then 32 else 0) decs ((σ % 2 == 1) :: tail)

/-- The decoder with a renormalisation threshold (41_viterbi.md R276, R278). -/
def viterbiWith (limit : Option Nat) (soft : List SoftBit) (n : Nat) : List Bool :=
  (traceback 0 (trellis limit initialMetrics (softSteps soft (n + 6))).reverse []).take n

/-- `Viterbi(s, N)` (41_viterbi.md R278), with unbounded metrics (DEDUCED, log 12). -/
def viterbi (soft : List SoftBit) (n : Nat) : List Bool := viterbiWith none soft n

end Sys2Proof.Machine
end

