-- ==== Sys2Proof/Machine/CmdFec.lean ====
section
/-! DEFINITION. The forward-error-correction commands VITDEC (41_viterbi.md R280), DEPUNCT and DESCR
(42_eep_dispersal.md R305, R312), RSDEC (43_reed_solomon.md R350). -/

namespace Sys2Proof.Machine

/-- The bytes that hold `n` bits (00_scope.md R15). -/
def bytesForBits (n : Nat) : Nat := (n + 7) / 8

/-- `VITDEC dst, src, N` (41_viterbi.md R280). -/
def execVitdec (src dst : BufOffset) (n : BitVec 20) (s : State) : Host.Outcome State Fault Refusal :=
  let soft := 4 * (n.toNat + 6)
  let out := viterbi (s.memRead src.toNat soft) n.toNat
  .next (s.runCommand (vitLegal n)
    (regionOk src.toNat soft 1 && regionOk dst.toNat (bytesForBits n.toNat) 1)
    ((s.cmdWrite dst.toNat (packBits out)).complete .ok (n.zeroExtend 32)))

/-- `DEPUNCT dst, src, A|B, level, bitrate` (42_eep_dispersal.md R305). -/
def execDepunct (src dst : BufOffset) (bitrate : BitVec 11) (profile : Profile) (levelM1 : BitVec 2)
    (s : State) : Host.Outcome State Fault Refusal :=
  let level := levelM1.toNat + 1
  let size := (eepRow profile level bitrate.toNat).size
  let out := 4 * (24 * bitrate.toNat + 6)
  let y := depuncture (s.memRead src.toNat (64 * size)) profile level bitrate.toNat
  .next (s.runCommand (bitrateLegal profile bitrate.toNat)
    (regionOk src.toNat (64 * size) 1 && regionOk dst.toNat out 1)
    ((s.cmdWrite dst.toNat y).complete .ok (BitVec.ofNat 32 out)))

/-- `DESCR dst, src, nbits` (42_eep_dispersal.md R312). -/
def execDescr (src dst : BufOffset) (nbits : BitVec 21) (s : State) : Host.Outcome State Fault Refusal :=
  let len := bytesForBits nbits.toNat
  let b := unpackBits (s.memRead src.toNat len) nbits.toNat
  .next (s.runCommand (descrLegal nbits) (regionOk src.toNat len 1 && regionOk dst.toNat len 1)
    ((s.cmdWrite dst.toNat (packBits (dedisperse b))).complete .ok (nbits.zeroExtend 32)))

/-- `RSDEC dst, src` (43_reed_solomon.md R350). -/
def execRsdec (src dst : BufOffset) (s : State) : Host.Outcome State Fault Refusal :=
  let block := s.memRead src.toNat rsLength
  let r := rsDecode block
  .next (s.runCommand true (regionOk src.toNat rsLength 1 && regionOk dst.toNat rsLength 1)
    ((s.cmdWrite dst.toNat (rsBlock block)).complete (if r.isSome then .ok else .uncorrectable)
      ((r.map fun x => BitVec.ofNat 32 x.2).getD 0xFFFFFFFF)))

end Sys2Proof.Machine
end

