-- ==== Sys2Proof/Machine/CmdOfdm.lean ====
section
/-! DEFINITION. The numeric commands FFT, FINDIDX, COARSE, DDEMOD (40_sync_ofdm.md R250–R253), computed in
`Config.dsp` (DESIGN CHOICE, log 4). -/

namespace Sys2Proof.Machine

/-- The complex vector of `Tu` samples a command reads at `src` (20_memory.md R106). -/
def State.spectrumAt (s : State) (src : BufOffset) : List (Cx Num) :=
  cxVector Config.dsp Tu (s.memRead src.toNat spectrumBytes)

/-- A complex vector of `Tu` samples may stand at an offset (20_memory.md R112). -/
def spectrumOk (o : BufOffset) : Bool := regionOk o.toNat spectrumBytes 8

/-- `FFT dst, src`, and `FFT.INV dst, src` (40_sync_ofdm.md R250). -/
def execFft (inv : Bool) (src dst : BufOffset) (s : State) : Host.Outcome State Fault Refusal :=
  let x := s.spectrumAt src
  let X := if inv then ifft Config.dsp x else fft Config.dsp x
  .next (s.runCommand true (spectrumOk src && spectrumOk dst)
    ((s.cmdWrite dst.toNat (bytesOfCxVector Config.dsp X)).complete .ok 0))

/-- `FINDIDX src` (40_sync_ofdm.md R251). -/
def execFindidx (src : BufOffset) (s : State) : Host.Outcome State Fault Refusal :=
  let r := findIndex Config.dsp ⟨Config.binSize, Config.topK, Config.nearDist⟩ (s.spectrumAt src)
  .next (s.runCommand true (spectrumOk src)
    (s.complete (if r.isSome then .ok else .peakFail) (BitVec.ofNat 32 (r.getD 0))))

/-- `COARSE src` (40_sync_ofdm.md R252). -/
def execCoarse (src : BufOffset) (s : State) : Host.Outcome State Fault Refusal :=
  let shift := coarseEst Config.dsp Config.coarseRange (fft Config.dsp (s.spectrumAt src))
  .next (s.runCommand true (spectrumOk src) (s.complete .ok (BitVec.ofInt 32 shift)))

/-- `DDEMOD dst, prev, cur` (40_sync_ofdm.md R253). -/
def execDdemod (src dst cur : BufOffset) (s : State) : Host.Outcome State Fault Refusal :=
  let b := softBits Config.dsp Config.softScale (s.spectrumAt src) (s.spectrumAt cur)
  .next (s.runCommand (curLegal cur)
    (spectrumOk src && spectrumOk cur && regionOk dst.toNat (2 * carriers) 1)
    ((s.cmdWrite dst.toNat b).complete .ok 0))

end Sys2Proof.Machine
end

