-- ==== Sys2Proof/Machine/SuperFrame.lean ====
section
/-! DEFINITION. The super-frame assembler SFA: the CRCs, the RS window, the header, the audio units and the
step of the agent (45_superframe.md R400–R419). -/

namespace Sys2Proof.Machine

/-! ## CRCs (45_superframe.md R417, R419) -/

/-- One message bit into a 16-bit CRC register with generator `poly`. -/
def crcBit (poly reg : BitVec 16) (b : Bool) : BitVec 16 :=
  (reg <<< 1) ^^^ (if reg.msb ^^ b then poly else 0)

/-- A message, most significant bit of each byte first, into a CRC register. -/
def crcRun (poly reg : BitVec 16) (bytes : List Byte) : BitVec 16 :=
  (unpackBits bytes (8 * bytes.length)).foldl (crcBit poly) reg

/-- `CRC16(P)` (45_superframe.md R417). -/
def crc16 (bytes : List Byte) : BitVec 16 := crcRun 0x1021 0xFFFF bytes ^^^ 0xFFFF

/-- `Fire(b)` (45_superframe.md R419). -/
def fireCode (bytes : List Byte) : BitVec 16 := crcRun 0x782F 0 bytes

/-- `FireOK(W)` (45_superframe.md R405): the fire code of W[2…10] is {W[0], W[1]}. -/
def fireOk (w : List Byte) : Bool := fireCode ((w.drop 2).take 9) == w.getD 0 0 ++ w.getD 1 0

/-! ## The RS window (45_superframe.md R404) -/

/-- Codeword `j` of a window of `cw` interleaved codewords: its byte `k` is `W[k·cw + j]`. -/
def codewordOf (w : List Byte) (cw j : Nat) : List Byte :=
  (List.range rsLength).map fun k => w.getD (k * cw + j) 0

/-- What `RSWindow` returns: the corrected window, the number of corrected symbols, and the number of
uncorrectable codewords. -/
structure RsWindow where
  bytes : List Byte
  ncorr : Nat
  nunc : Nat
deriving DecidableEq, Repr

/-- `RSWindow(W, s)` with `cw` codewords (45_superframe.md R404), its counters and events left to the
caller. -/
def rsWindow (w : List Byte) (cw : Nat) : RsWindow :=
  let words := (List.range cw).map (codewordOf w cw)
  let fixed := words.map rsBlock
  { bytes := (List.range (rsLength * cw)).map fun i => (fixed.getD (i % cw) []).getD (i / cw) 0
    ncorr := (words.map fun r => ((rsDecode r).map (·.2)).getD 0).sum
    nunc := (words.filter fun r => (rsDecode r).isNone).length }

/-- The counters of `RSWindow` (45_superframe.md R404). -/
def State.countSymbols (s : State) (r : RsWindow) : State :=
  (s.count .rsCorr (BitVec.ofNat 32 r.ncorr)).count .rsUncorr (BitVec.ofNat 32 r.nunc)

/-- An event raised if a condition holds. -/
def State.raiseIf (s : State) (b : Bool) (c : Event) (info : Word) : State :=
  if b then s.raise c info else s

/-- The counters and events of `RSWindow` (45_superframe.md R404). -/
def State.countRsWindow (s : State) (r : RsWindow) : State :=
  ((s.countSymbols r).raiseIf (0 < r.ncorr) .rsCorrected (BitVec.ofNat 32 r.ncorr)).raiseIf (0 < r.nunc)
    .rsUncorr (BitVec.ofNat 32 r.nunc)

/-! ## The header (45_superframe.md R410–R412) -/

/-- `dac_rate` of the format byte. -/
def dacRate (byte2 : Byte) : Bool := byte2.getLsbD 6

/-- `sbr_flag` of the format byte. -/
def sbrFlag (byte2 : Byte) : Bool := byte2.getLsbD 5

/-- The number of audio units (45_superframe.md R411). -/
def numAus (byte2 : Byte) : Nat :=
  match dacRate byte2, sbrFlag byte2 with
  | false, false => 4
  | false, true => 2
  | true, false => 6
  | true, true => 3

/-- The header length `h` (45_superframe.md R411). -/
def headerLength (byte2 : Byte) : Nat :=
  match dacRate byte2, sbrFlag byte2 with
  | false, false => 8
  | false, true => 5
  | true, false => 11
  | true, true => 6

/-- `au_start[i]`, i ≥ 1: the `i`-th 12-bit field from W[3] on, most significant bit first
(45_superframe.md R410). -/
def auStartField (w : List Byte) (i : Nat) : Nat :=
  (List.range 12).foldl (fun acc k => 2 * acc + (streamBit w (24 + 12 * (i - 1) + k)).toNat) 0

/-- `au_start[1 … n − 1]` of a window. -/
def auStartFields (w : List Byte) (n : Nat) : List Nat :=
  (List.range (n - 1)).map fun i => auStartField w (i + 1)

/-- The header cache `parse_header(W)` fills (45_superframe.md R412); `perSf` is `AU_OFFSETS_PER_SF`. -/
def parseHeader (perSf : Bool) (w : List Byte) : Format :=
  let byte2 := w.getD 2 0
  { byte2 := byte2, numAus := numAus byte2, h := headerLength byte2,
    auStart := if perSf then [] else auStartFields w (numAus byte2) }

/-- The FORMAT record (45_superframe.md R412). -/
def formatRecord (fmt : Format) : List Word :=
  [0xF0#8 ++ BitVec.ofNat 8 fmt.numAus ++ fmt.byte2 ++ 0#8,
   if dacRate fmt.byte2 then 48000 else 32000,
   0#16 ++ 16#8 ++ (if fmt.byte2.getLsbD 4 || fmt.byte2.getLsbD 3 then 2#8 else 1#8)]

/-! ## The AU record stream (45_superframe.md R412, R418) -/

/-- AUQ has room for a record. -/
def State.auqFits (s : State) (record : List Word) : Bool :=
  4 * s.q.auq.length + 4 * record.length ≤ Config.auqBytes

/-- A record appended to the AU record stream with its event, or dropped whole and counted: `dropInfo` is
the info of `AU_DROP`. SFA never holds on AUQ (45_superframe.md R418). -/
def State.emitRecord (s : State) (record : List Word) (ready : Event) (dropInfo : Word) : State :=
  if s.auqFits record then
    { s with q := { s.q with auq := s.q.auq ++ record } }.raise ready (record.getD 0 0)
  else (s.count .auDrop 1).raise .auDrop dropInfo

/-- `emit_format()` (45_superframe.md R412). -/
def State.emitFormat (s : State) : State :=
  s.emitRecord (formatRecord s.sfa.fmt) .format 0xFFFFFFFF

/-- The AU record of audio unit `i` with payload `p` (45_superframe.md R418). -/
def auRecord (i : Nat) (p : List Byte) : List Word :=
  (0xA0#8 ++ BitVec.ofNat 4 i ++ BitVec.ofNat 20 p.length) :: wordsOfBytes p

/-! ## Audio units (45_superframe.md R414–R416) -/

/-- `st[i]` of a window of `cw` codewords (45_superframe.md R414); `perSf` is `AU_OFFSETS_PER_SF`. -/
def unitStart (perSf : Bool) (fmt : Format) (w : List Byte) (cw i : Nat) : Nat :=
  if i = 0 then fmt.h
  else if i = fmt.numAus then 110 * cw
  else if perSf then auStartField w i
  else fmt.auStart.getD (i - 1) 0

/-- Audio unit `i` is malformed (45_superframe.md R415). -/
def auMalformed (h cw start stop : Nat) : Bool := start < h || 110 * cw < stop || stop < start + 3

/-- The payload of the audio unit `W[start … stop − 1]`: all but its last two bytes (45_superframe.md
R416). -/
def auPayload (w : List Byte) (start stop : Nat) : List Byte := (w.drop start).take (stop - start - 2)

/-- The stored CRC of an audio unit that ends before `stop`: its last two bytes, the high one first
(45_superframe.md R416). -/
def auStoredCrc (w : List Byte) (stop : Nat) : BitVec 16 := w.getD (stop - 2) 0 ++ w.getD (stop - 1) 0

/-- One audio unit: dropped and counted, or its record emitted (45_superframe.md R415, R416). -/
def State.processAu (s : State) (w : List Byte) (cw h i start stop : Nat) : State :=
  let info := BitVec.ofNat 32 i
  if auMalformed h cw start stop then (s.count .auMalformed 1).raise .auMalformed info
  else if crc16 (auPayload w start stop) = auStoredCrc w stop then
    (s.count .auOk 1).emitRecord (auRecord i (auPayload w start stop)) .auReady info
  else (s.count .auCrcFail 1).raise .auCrcFail info

/-- The audio units `is` in their order, unit `i` from `st i` to `st (i + 1)` (45_superframe.md R414). -/
def State.processAus (s : State) (w : List Byte) (cw h : Nat) (st : Nat → Nat) (is : List Nat) : State :=
  is.foldl (fun t i => t.processAu w cw h i (st i) (st (i + 1))) s

/-- `extract_aus(W)` (45_superframe.md R414): the units in index order. -/
def State.extractAus (s : State) (w : List Byte) (cw : Nat) : State :=
  s.processAus w cw s.sfa.fmt.h (unitStart Config.auOffsetsPerSf s.sfa.fmt w cw) (List.range s.sfa.fmt.numAus)

/-! ## The step of SFA (45_superframe.md R401–R406) -/

/-- SFA becomes SYNCED and its frame store empty (45_superframe.md R405). -/
def State.enterSynced (s : State) : State :=
  { s with sfa := { s.sfa with phase := .synced, store := [] } }.raiseIf (s.sfa.phase == SfPhase.accumulating)
    .sfSync 0

/-- The header cache filled and its record emitted, unless it is valid (45_superframe.md R405, R412). -/
def State.cacheFormat (s : State) (w : List Byte) : State :=
  if s.sfa.fmtValid then s
  else { s with sfa :=
    { s.sfa with fmt := parseHeader Config.auOffsetsPerSf w, fmtValid := true } }.emitFormat

/-- `pass(W, nunc)` (45_superframe.md R405). -/
def State.passWindow (s : State) (w : List Byte) (cw nunc : Nat) : State :=
  if 0 < nunc then s.enterSynced
  else ((s.enterSynced.count .sfOk 1).cacheFormat w).extractAus w cw

/-- A fire-code mismatch counted and reported (45_superframe.md R406). -/
def State.countFireFail (s : State) (fire : Bool) : State :=
  if fire then s else (s.count .fireFail 1).raise .fireFail 0

/-- `fail(fire)` (45_superframe.md R406). -/
def State.failWindow (s : State) (fire : Bool) : State :=
  let t := (s.countFireFail fire).raiseIf (s.sfa.phase == SfPhase.synced) .sfLost 0
  { t with sfa := { t.sfa with phase := .accumulating, store := t.sfa.store.drop 1 } }

/-- `attempt(a)` on the window of five payloads (45_superframe.md R403): the correction is of a copy. -/
def State.attemptWindow (s : State) (cw : Nat) : State :=
  let r := rsWindow s.sfa.store.flatten cw
  if fireOk r.bytes && (r.nunc == 0 || s.sfa.phase == .synced) then
    (s.countRsWindow r).passWindow r.bytes cw r.nunc
  else (s.countRsWindow r).failWindow (fireOk r.bytes)

/-- The head of SFQ removed, and one entry less for a waiting DRAIN (46_control.md R441). -/
def State.popSfq (s : State) (rest : List (BitVec 16 × List Byte)) : State :=
  { s with q := { s.q with sfq := rest }, cmd := { s.cmd with drainS := s.cmd.drainS - 1 } }

/-- An entry of another generation, or with no valid selection: discarded and counted
(44_deinterleave_msc.md R370, 45_superframe.md R401). -/
def State.discardStale (s : State) (gen : BitVec 16) : State :=
  (s.count .cifStale 1).raise .cifStale (gen.zeroExtend 32)

/-- The first entry of a new selection: nothing of the old one survives (45_superframe.md R401). -/
def State.adoptSfaGen (s : State) (gen : BitVec 16) : State :=
  if gen = s.sfa.sfaGen then s
  else { s with sfa :=
    { s.sfa with phase := .accumulating, store := [], fmtValid := false, sfaGen := gen } }

/-- A payload appended to the frame store (45_superframe.md R401). -/
def State.storePayload (s : State) (bytes : List Byte) : State :=
  { s with sfa := { s.sfa with store := s.sfa.store ++ [bytes] } }

/-- A payload of the present generation: stored, and, when it is the fifth, tried (45_superframe.md
R401, R402). -/
def State.assemble (s : State) (bytes : List Byte) (cw : Nat) : State :=
  if s.sfa.store.length + 1 = cifsPerSuperFrame then (s.storePayload bytes).attemptWindow cw
  else s.storePayload bytes

/-- The SFA step (45_superframe.md R401); an agent that is not enabled takes none (R454). -/
def State.sfaStep (s : State) : State :=
  if !s.streaming then s
  else
    match s.q.sfq with
    | [] => s
    | (gen, bytes) :: rest =>
      if !s.sel.act.valid || gen != s.sel.act.generation then (s.popSfq rest).discardStale gen
      else ((s.popSfq rest).adoptSfaGen gen).assemble bytes (s.sel.act.bitrate.toNat / 8)

end Sys2Proof.Machine
end

