-- ==== Sys2Proof/Machine/CmdSuperFrame.lean ====
section
/-! DEFINITION. The super-frame commands SFCHK, FIRECRC, CRC16 (45_superframe.md R421–R423). -/

namespace Sys2Proof.Machine

/-- `SFCHK dst, src, s` (45_superframe.md R421): no counter and no event but the completion's. -/
def execSfchk (src dst : BufOffset) (cw : BitVec 8) (s : State) : Host.Outcome State Fault Refusal :=
  let len := rsLength * cw.toNat
  let r := rsWindow (s.memRead src.toNat len) cw.toNat
  let code := if 0 < r.nunc then .uncorrectable else if fireOk r.bytes then .ok else .crcMismatch
  .next (s.runCommand (sfchkLegal cw) (regionOk src.toNat len 1 && regionOk dst.toNat len 1)
    ((s.cmdWrite dst.toNat r.bytes).complete code
      ((BitVec.ofNat 32 r.nunc <<< 16) ||| BitVec.ofNat 32 r.ncorr)))

/-- `FIRECRC src` (45_superframe.md R422). -/
def execFirecrc (src : BufOffset) (s : State) : Host.Outcome State Fault Refusal :=
  .next (s.runCommand true (regionOk src.toNat 9 1)
    (s.complete .ok ((fireCode (s.memRead src.toNat 9)).zeroExtend 32)))

/-- `CRC16 src, n` (45_superframe.md R423). -/
def execCrc16 (src : BufOffset) (nbytes : BitVec 19) (s : State) : Host.Outcome State Fault Refusal :=
  .next (s.runCommand (crcLegal nbytes) (regionOk src.toNat nbytes.toNat 1)
    (s.complete .ok ((crc16 (s.memRead src.toNat nbytes.toNat)).zeroExtend 32)))

end Sys2Proof.Machine
end

