-- ==== Sys2Proof/Machine/Dispatch.lean ====
section
/-! DEFINITION. The dispatch of a command to its meaning: `execute(cmd)` with its checks (30_encoding.md
R150, R152). -/

namespace Sys2Proof.Machine

/-- The meaning of a command, as the command at the head of CMDQ. -/
def exec (i : Instr) (s : State) : Host.Outcome State Fault Refusal :=
  match i with
  | .nop => Sys2Proof.Machine.execNop s
  | .fft inv src dst => Sys2Proof.Machine.execFft inv src dst s
  | .findidx src => Sys2Proof.Machine.execFindidx src s
  | .coarse src => Sys2Proof.Machine.execCoarse src s
  | .ddemod src dst cur => Sys2Proof.Machine.execDdemod src dst cur s
  | .vitdec src dst n => Sys2Proof.Machine.execVitdec src dst n s
  | .depunct src dst bitrate profile levelM1 => Sys2Proof.Machine.execDepunct src dst bitrate profile levelM1 s
  | .descr src dst nbits => Sys2Proof.Machine.execDescr src dst nbits s
  | .rsdec src dst => Sys2Proof.Machine.execRsdec src dst s
  | .sfchk src dst cw => Sys2Proof.Machine.execSfchk src dst cw s
  | .firecrc src => Sys2Proof.Machine.execFirecrc src s
  | .crc16 src nbytes => Sys2Proof.Machine.execCrc16 src nbytes s
  | .injmsc src => Sys2Proof.Machine.execInjmsc src s
  | .injsf src => Sys2Proof.Machine.execInjsf src s
  | .drain => Sys2Proof.Machine.execDrain s

end Sys2Proof.Machine
end

