-- ==== Sys2Proof/Machine/Control.lean ====
section
/-! DEFINITION. Run control, stop, finish and the two resets (10_state.md R37, 46_control.md R450, R452,
70_reset_and_hazards.md R510, R511). -/

namespace Sys2Proof.Machine

/-- Stop (46_control.md R450): a second stop has no effect. -/
def State.stop (s : State) : State :=
  if s.ctl.stopReq then s
  else { s with ctl := { s.ctl with stopReq := true, stopped := true } }.raise .halted 1

/-- Finish (46_control.md R452): the finish flag. -/
def State.finish (s : State) : State := { s with ctl := { s.ctl with finishReq := true } }

/-- The condition on which FINISHED is reached (46_control.md R452). -/
def State.drained (s : State) : Bool :=
  s.ctl.finishReq && !s.ctl.stopReq && s.q.iqf.length < 2 && s.q.sampq.isEmpty && s.q.symq.isEmpty
    && s.q.mscq.isEmpty && s.q.sfq.isEmpty

/-- The end of every step: FINISHED is reached in the first step after which its condition holds, and a
single byte left in IQF is discarded (46_control.md R452). -/
def State.settle (s : State) : State :=
  if s.drained && !s.ctl.finished then
    { s with ctl := { s.ctl with finished := true }, q := { s.q with iqf := [] } }.raise .halted 2
  else s

/-- Soft reset (70_reset_and_hazards.md R511): everything but BUF; the model's own fields are kept. -/
def State.softReset (s : State) : State :=
  { State.reset with
    buf := s.buf, bufEpoch := s.bufEpoch, hostData := s.hostData, turns := s.turns, tick := s.tick }

/-- Hardware reset (70_reset_and_hazards.md R510): everything, the contents of BUF becoming unspecified
anew (DESIGN CHOICE, log 2). The turns still to come and the step count are the model's own. -/
def State.hardwareReset (s : State) : State :=
  { State.reset with bufEpoch := s.bufEpoch + 1, turns := s.turns, tick := s.tick }

/-- The RUN and IRQ_EN bits of a write to `CTRL` (10_state.md R37). -/
def State.setEnables (s : State) (v : Word) : State :=
  { s with ctl := { s.ctl with run := v.getLsbD 0, irqEn := v.getLsbD 4 } }

/-- A write to `CTRL` (10_state.md R37): SOFT_RESET, then RUN and IRQ_EN, then STOP, then FINISH. -/
def State.writeCtrl (s : State) (v : Word) : State :=
  let t := (if v.getLsbD 3 then s.softReset else s).setEnables v
  let t := if v.getLsbD 1 then t.stop else t
  if v.getLsbD 2 then t.finish else t

end Sys2Proof.Machine
end

