-- ==== Sys2Proof/Machine/HostBus.lean ====
section
/-! DEFINITION. The host's accesses: the CSR map, BUF, the sub-channel commit, the IQ pushes, the record
pops and the command queue (10_state.md R35–R53; 20_memory.md R100–R116, R123; 40_sync_ofdm.md R201,
R245; 45_superframe.md R420). -/

namespace Sys2Proof.Machine

/-! ## The CSR map (10_state.md R36, R52) -/

/-- The control and status registers (10_state.md R36). -/
inductive Csr where
  | id
  | ctrl
  | status
  | irqStatus
  | irqEnable
  | errCause
  | errInfo
  | frameCount
  | signalLevel
  | coarseCorr
  | fineCorr
  | lastIndex
  | oscPhase
  | subchStage0
  | subchStage1
  | subchCommit
  | subchActive0
  | subchActive1
  | cnt (c : Counter)
  | cntSnapshot
  | iqPush32
  | iqPush8
  | iqFree
  | ficPop
  | ficAvail
  | auPop
  | auAvail
  | cmdW0
  | cmdW1
  | cmdW2
  | cmdW3
  | cmdGo
  | cmdStatus
  | cmdResult
  | cmdSeq
deriving DecidableEq, Repr

/-- The register at a byte offset of the CSR space; none is a reserved offset (10_state.md R35, R36,
R52). -/
def csrAt (offset : Nat) : Option Csr :=
  match offset with
  | 0x000 => some .id
  | 0x004 => some .ctrl
  | 0x008 => some .status
  | 0x00C => some .irqStatus
  | 0x010 => some .irqEnable
  | 0x014 => some .errCause
  | 0x018 => some .errInfo
  | 0x01C => some .frameCount
  | 0x020 => some .signalLevel
  | 0x024 => some .coarseCorr
  | 0x028 => some .fineCorr
  | 0x02C => some .lastIndex
  | 0x030 => some .oscPhase
  | 0x040 => some .subchStage0
  | 0x044 => some .subchStage1
  | 0x048 => some .subchCommit
  | 0x04C => some .subchActive0
  | 0x050 => some .subchActive1
  | 0x080 => some (.cnt .syncTimeout)
  | 0x084 => some (.cnt .peakFail)
  | 0x088 => some (.cnt .nosample)
  | 0x08C => some (.cnt .frames)
  | 0x090 => some (.cnt .ficBlocks)
  | 0x094 => some (.cnt .cifIn)
  | 0x098 => some (.cnt .cifStale)
  | 0x09C => some (.cnt .rsCorr)
  | 0x0A0 => some (.cnt .rsUncorr)
  | 0x0A4 => some (.cnt .fireFail)
  | 0x0A8 => some (.cnt .sfOk)
  | 0x0AC => some (.cnt .auOk)
  | 0x0B0 => some (.cnt .auCrcFail)
  | 0x0B4 => some (.cnt .auMalformed)
  | 0x0B8 => some (.cnt .cmdErr)
  | 0x0BC => some (.cnt .iqOverflow)
  | 0x0C0 => some (.cnt .ficDrop)
  | 0x0C4 => some (.cnt .auDrop)
  | 0x0FC => some .cntSnapshot
  | 0x100 => some .iqPush32
  | 0x104 => some .iqPush8
  | 0x108 => some .iqFree
  | 0x110 => some .ficPop
  | 0x114 => some .ficAvail
  | 0x120 => some .auPop
  | 0x124 => some .auAvail
  | 0x200 => some .cmdW0
  | 0x204 => some .cmdW1
  | 0x208 => some .cmdW2
  | 0x20C => some .cmdW3
  | 0x210 => some .cmdGo
  | 0x214 => some .cmdStatus
  | 0x218 => some .cmdResult
  | 0x21C => some .cmdSeq
  | _ => none

/-! ## The sub-channel commit (10_state.md R47, R48) -/

/-- The staged selection, valid and with generation `g` (10_state.md R36, R47). -/
def stagedSelection (r : SelectionRegs) (g : BitVec 16) : Selection where
  subchId := r.stage0.extractLsb' 0 6
  startCu := r.stage0.extractLsb' 6 10
  sizeCu := r.stage0.extractLsb' 16 10
  bitrate := r.stage1.extractLsb' 0 11
  profile := profileOfBit (r.stage1.getLsbD 12)
  levelM1 := r.stage1.extractLsb' 13 2
  valid := true
  generation := g

/-- The number of the first check of 10_state.md R48 that a selection fails; check 1 holds of every 2-bit
LEVEL_M1 (DEDUCED, log 8). -/
def failingCheck (a : Selection) : Option Nat :=
  if !bitrateLegal a.profile a.bitrate.toNat then some 2
  else if a.sizeCu.toNat != (eepRow a.profile (a.levelM1.toNat + 1) a.bitrate.toNat).size then some 3
  else if 864 < a.startCu.toNat + a.sizeCu.toNat then some 4
  else none

/-- A write to `SUBCH_COMMIT` (10_state.md R47): one indivisible step. -/
def State.commit (s : State) (v : Word) : State :=
  if !v.getLsbD 0 then s
  else
    let a := stagedSelection s.sel (s.sel.act.generation + 1)
    match failingCheck a with
    | none =>
      { s with sel := { s.sel with act := a, rejected := false } }.raise .subchSwap
        (a.generation.zeroExtend 32)
    | some n => { s with sel := { s.sel with rejected := true } }.raise .subchReject (BitVec.ofNat 32 n)

/-! ## IQ pushes, record pops, snapshot, command queue -/

/-- Bytes offered to IQF: appended whole, or dropped whole and counted (40_sync_ofdm.md R201). -/
def State.pushIq (s : State) (bs : List Byte) : State :=
  if !s.ctl.finishReq && s.q.iqf.length + bs.length ≤ Config.iqFifoBytes then
    { s with q := { s.q with iqf := s.q.iqf ++ bs } }
  else
    (s.count .iqOverflow (BitVec.ofNat 32 bs.length)).raise .iqOverflow
      (BitVec.ofNat 32 bs.length ||| flagAt s.ctl.finishReq 31)

/-- The FIC records after their first word is popped: a record leaves with its last word
(40_sync_ofdm.md R244, R245). -/
def popRecordWord : List (List Word) → List (List Word)
  | [] => []
  | [] :: rs => popRecordWord rs
  | (_ :: []) :: rs => rs
  | (_ :: w :: ws) :: rs => (w :: ws) :: rs

/-- `CNT_SNAPSHOT` (10_state.md R53): one indivisible step. -/
def State.snapshot (s : State) : State := { s with snap := s.live, snapSeq := s.snapSeq + 1 }

/-- `CMD_GO` (10_state.md R41). A DRAIN put into an empty queue is its head at once (46_control.md
R441). -/
def State.cmdGo (s : State) : State :=
  if s.cmd.queue.length < cmdqDepth then
    let e : CmdEntry := ⟨⟨s.cmd.w0, s.cmd.w1, s.cmd.w2, s.cmd.w3⟩, s.cmd.seq, [], []⟩
    let t := { s with cmd := { s.cmd with queue := s.cmd.queue ++ [e], seq := s.cmd.seq + 1 } }
    if s.cmd.queue.isEmpty then t.noteDrain else t
  else { s with cmd := { s.cmd with qfull := true } }.raise .cmdQfull 0

/-! ## CSR reads and writes (10_state.md R36; 20_memory.md R116) -/

/-- The value a read of a register returns. A write-only register has no value the spec gives: it reads a
free value (DESIGN CHOICE, log 6). -/
def State.csrValue (s : State) : Csr → Word
  | .id => 0xDAB00100
  | .ctrl => s.ctrlWord
  | .status => s.statusWord
  | .irqStatus => s.ev.irqStatus.zeroExtend 32
  | .irqEnable => s.ev.irqEnable.zeroExtend 32
  | .errCause => s.ev.errCause
  | .errInfo => s.ev.errInfo
  | .frameCount => s.meas.frameCount
  | .signalLevel => s.meas.signalLevel
  | .coarseCorr => s.meas.coarseCorr
  | .fineCorr => s.meas.fineCorr
  | .lastIndex => s.meas.lastIndex
  | .oscPhase => s.meas.oscPhase
  | .subchStage0 => s.sel.stage0
  | .subchStage1 => s.sel.stage1
  | .subchCommit => s.sel.act.generation.zeroExtend 32 ||| flagAt s.sel.rejected 16
  | .subchActive0 => 0#6 ++ s.sel.act.sizeCu ++ s.sel.act.startCu ++ s.sel.act.subchId
  | .subchActive1 => depunctParam s.sel.act.bitrate s.sel.act.profile s.sel.act.levelM1
  | .cnt c => s.snap.get c
  | .cntSnapshot => s.snapSeq.zeroExtend 32
  | .iqPush32 => Config.writeOnlyRead s.tick
  | .iqPush8 => Config.writeOnlyRead s.tick
  | .iqFree => BitVec.ofNat 32 (Config.iqFifoBytes - s.q.iqf.length)
  | .ficPop => s.q.ficq.flatten.headD 0
  | .ficAvail => BitVec.ofNat 32 s.q.ficq.flatten.length
  | .auPop => s.q.auq.headD 0
  | .auAvail => BitVec.ofNat 32 s.q.auq.length
  | .cmdW0 => s.cmd.w0
  | .cmdW1 => s.cmd.w1
  | .cmdW2 => s.cmd.w2
  | .cmdW3 => s.cmd.w3
  | .cmdGo => Config.writeOnlyRead s.tick
  | .cmdStatus => s.cmdStatusWord
  | .cmdResult => s.cmd.result
  | .cmdSeq => s.cmd.seq.zeroExtend 32

/-- The side effect of a read: `FIC_POP` and `AU_POP` remove a word, no other register has one
(20_memory.md R116). -/
def State.csrReadEffect (s : State) (r : Csr) : State :=
  match r with
  | .ficPop => { s with q := { s.q with ficq := popRecordWord s.q.ficq } }
  | .auPop => { s with q := { s.q with auq := s.q.auq.drop 1 } }
  | _ => s

/-- A write to a register; one that is read-only ignores it (10_state.md R35, R36). -/
def State.csrWrite (s : State) (v : Word) : Csr → State
  | .ctrl => s.writeCtrl v
  | .irqStatus =>
    { s with ev := { s.ev with irqStatus := s.ev.irqStatus &&& ~~~ (v.extractLsb' 0 25) } }
  | .irqEnable => { s with ev := { s.ev with irqEnable := v.extractLsb' 0 25 } }
  | .subchStage0 => { s with sel := { s.sel with stage0 := v &&& 0x03FFFFFF } }
  | .subchStage1 => { s with sel := { s.sel with stage1 := v &&& 0x000077FF } }
  | .subchCommit => s.commit v
  | .cntSnapshot => s.snapshot
  | .iqPush32 => s.pushIq (bytesOfWord 4 v)
  | .iqPush8 => s.pushIq (bytesOfWord 1 v)
  | .cmdW0 => { s with cmd := { s.cmd with w0 := v } }
  | .cmdW1 => { s with cmd := { s.cmd with w1 := v } }
  | .cmdW2 => { s with cmd := { s.cmd with w2 := v } }
  | .cmdW3 => { s with cmd := { s.cmd with w3 := v } }
  | .cmdGo => s.cmdGo
  | .cmdStatus =>
    { s with cmd := { s.cmd with
      done := s.cmd.done && !v.getLsbD 1, qfull := s.cmd.qfull && !v.getLsbD 2 } }
  | .id | .status | .errCause | .errInfo | .frameCount | .signalLevel | .coarseCorr | .fineCorr
  | .lastIndex | .oscPhase | .subchActive0 | .subchActive1 | .cnt _ | .iqFree | .ficPop | .ficAvail
  | .auPop | .auAvail | .cmdResult | .cmdSeq => s

/-! ## Host accesses (20_memory.md R100–R111, R123) -/

/-- The width of an access in bytes. -/
def Width.bytes : Width → Nat
  | .w8 => 1
  | .w16 => 2
  | .w32 => 4

/-- Where a host access goes (20_memory.md R100, R102, R110, R111). -/
inductive Target where
  | csr (offset : Nat)
  | buf (offset : Nat)
  | busError
deriving DecidableEq, Repr

/-- The target of an access of width `w` at address `a`: CSRs take aligned 32-bit accesses only, BUF
naturally aligned ones, and every other access is a bus error (20_memory.md R102, R110, R111). -/
def targetOf (a : Nat) (w : Width) : Target :=
  if a < 0x1000 then (if w = .w32 ∧ a % 4 = 0 then .csr a else .busError)
  else if 0x40000 ≤ a ∧ a < 0x40000 + bufBytes then
    (if a % Width.bytes w = 0 then .buf (a - 0x40000) else .busError)
  else .busError

/-- A byte of BUF as a host read sees it while the head of CMDQ executes: the present byte, or the byte
`after` the command, whatever raced bytes the command itself reads (20_memory.md R123; DEDUCED, log 3). -/
def State.hostByte (s after : State) (a : Nat) : Byte :=
  if Config.hostSeesNew s.tick a then after.bufByte a else s.bufByte a

/-- The data on the bus after a host read (DESIGN CHOICE, log 17). -/
def State.answer (s : State) (v : Word) : State := { s with hostData := v }

/-- A bus error at address `a` (60_exceptions.md R470). -/
def State.busError (s : State) (a : HostAddr) : State := s.raise .busErr (a.zeroExtend 32)

/-- A host read; `after` is the state after a step of CMD on the head of CMDQ. -/
def State.hostRead (s after : State) (a : HostAddr) (w : Width) : State :=
  match targetOf a.toNat w with
  | .csr o =>
    match csrAt o with
    | some r => (s.csrReadEffect r).answer (s.csrValue r)
    | none => s.answer 0
  | .buf o =>
    s.answer (wordOfBytes ((List.range (Width.bytes w)).map fun i => s.hostByte after (o + i)))
  | .busError => (s.busError a).answer 0

/-- The bytes from offset `a` on that a host write is about to replace, noted with a queued command that
may still read them (20_memory.md R123; DEDUCED, log 3). -/
def CmdEntry.noteReplaced (e : CmdEntry) (s : State) (a n : Nat) : CmdEntry :=
  { e with raced := ((List.range n).map fun i => (a + i, s.bufByte (a + i))) ++ e.raced }

/-- The offsets that a host write writes while the command executes (93_implementation_defined.md I14;
DEDUCED, log 3). -/
def CmdEntry.noteOverwritten (e : CmdEntry) (a n : Nat) : CmdEntry :=
  { e with overwritten := (List.range n).map (a + ·) ++ e.overwritten }

/-- A host write of `n` bytes from offset `a` on is noted with every queued command; the head of CMDQ is the
one that executes (20_memory.md R123; 93_implementation_defined.md I14; DEDUCED, log 3). -/
def State.noteRace (s : State) (a n : Nat) : State :=
  let noted := s.cmd.queue.map fun e => e.noteReplaced s a n
  { s with cmd := { s.cmd with queue := noted.modifyHead fun e => e.noteOverwritten a n } }

/-- A host write of the low bytes of `v`. -/
def State.hostWrite (s : State) (a : HostAddr) (w : Width) (v : Word) : State :=
  match targetOf a.toNat w with
  | .csr o =>
    match csrAt o with
    | some r => s.csrWrite v r
    | none => s
  | .buf o => (s.noteRace o (Width.bytes w)).memWrite o (bytesOfWord (Width.bytes w) v)
  | .busError => s.busError a

/-- One host access (20_memory.md R115: indivisible). -/
def State.hostAccess (s after : State) : HostAccess → State
  | .read a w => s.hostRead after a w
  | .write a w v => s.hostWrite a w v

end Sys2Proof.Machine
end

