-- ==== Sys2Proof/Machine/MscChain.lean ====
section
/-! DEFINITION. The time de-interleaver and the step of the MSC agent (44_deinterleave_msc.md
R370–R377). -/

namespace Sys2Proof.Machine

/-- The time-interleaving permutation Π (44_deinterleave_msc.md R372). -/
def interleaverPerm : List Nat := [0, 8, 4, 12, 2, 10, 6, 14, 1, 9, 5, 13, 3, 11, 7, 15]

/-- The `n` soft bits read from the store when `ti_w` is the slot just written (44_deinterleave_msc.md
R372). -/
def deinterleaved (ti : List (List SoftBit)) (tiW n : Nat) : List SoftBit :=
  (List.range n).map fun i =>
    (ti.getD ((tiW + 1 + interleaverPerm.getD (i % 16) 0) % 16) []).getD i 0

/-- `deinterleave(frag)` for a fragment of `n` soft bits: the new store, and the soft bits unless it is
still filling (44_deinterleave_msc.md R371, R372). -/
def deinterleave (m : MscState) (frag : List SoftBit) (n : Nat) :
    MscState × Option (List SoftBit) :=
  let ti := m.ti.set m.tiW frag
  let tiW := (m.tiW + 1) % 16
  if m.tiFill < 15 then ({ m with ti := ti, tiW := tiW, tiFill := m.tiFill + 1 }, none)
  else ({ m with ti := ti, tiW := tiW }, some (deinterleaved ti m.tiW n))

/-- The first fragment of a new selection restarts the de-interleaver (44_deinterleave_msc.md R370,
R373). -/
def MscState.adopt (m : MscState) (gen : BitVec 16) : MscState :=
  if gen = m.mscGen then m else { m with tiW := 0, tiFill := 0, mscGen := gen }

/-- The payload of a de-interleaved fragment: de-punctured, decoded, descrambled and packed
(44_deinterleave_msc.md R374–R377). -/
def payloadOf (a : Selection) (y : List SoftBit) : List Byte :=
  let n := 24 * a.bitrate.toNat
  packBits (dedisperse (viterbi (depuncture y a.profile (a.levelM1.toNat + 1) a.bitrate.toNat) n))

/-- The head of MSCQ removed; a waiting DRAIN counts it, and the entry of SFQ made of it
(46_control.md R441). -/
def State.popMscq (s : State) (rest : List (BitVec 16 × List SoftBit)) (pushes : Bool) : State :=
  { s with
    q := { s.q with mscq := rest }
    cmd := { s.cmd with
      drainM := s.cmd.drainM - 1
      drainS := if 0 < s.cmd.drainM && pushes then s.cmd.drainS + 1 else s.cmd.drainS } }

/-- A fragment accepted: popped and counted, the de-interleaver being left as `m`, and its payload, if
there is one, pushed (44_deinterleave_msc.md R370). -/
def State.acceptFragment (s : State) (rest : List (BitVec 16 × List SoftBit)) (m : MscState)
    (payload : List (BitVec 16 × List Byte)) : State :=
  let t := (s.popMscq rest (!payload.isEmpty)).count .cifIn 1
  { t with msc := m, q := { t.q with sfq := t.q.sfq ++ payload } }

/-- SFQ has no room for a push (10_state.md R61). -/
def State.sfqFull (s : State) : Bool := Config.sfqDepth ≤ s.q.sfq.length

/-- The MSC step (44_deinterleave_msc.md R370). It is enabled only while SFQ has room for the push it may make,
whatever the fragment. -/
def State.mscStep (s : State) : State :=
  if !s.streaming || s.sfqFull then s
  else
    match s.q.mscq with
    | [] => s
    | (gen, frag) :: rest =>
      let a := s.sel.act
      if !a.valid || gen != a.generation then (s.popMscq rest false).discardStale gen
      else
        let d := deinterleave (s.msc.adopt gen) frag (64 * a.sizeCu.toNat)
        s.acceptFragment rest d.1 (d.2.toList.map fun y => (gen, payloadOf a y))

end Sys2Proof.Machine
end

