-- ==== Sys2Proof/Machine/Turns.lean ====
section
/-! DEFINITION. The turns of the agents: which one comes next, and what it does (10_state.md R33, R34;
30_encoding.md R150; 46_control.md R454; DESIGN CHOICE, log 1). -/

namespace Sys2Proof.Machine

/-- The turn that comes next: the first listed one, and when none is listed a free one (DESIGN CHOICE, log 1). -/
def State.nextTurn (s : State) : Turn := s.turns.headD (Config.freeTurn s.tick)

/-- The state in which that turn is taken: the turn is no longer to come, and one more step is counted. -/
def State.beginTurn (s : State) : State := { s with turns := s.turns.drop 1, tick := s.tick + 1 }

/-- The CMD step on the head of CMDQ (30_encoding.md R150, R152): a descriptor that is no instruction
completes with its result code, reading and writing nothing (R144). RUN, STOP and FINISH do not gate it
(46_control.md R454). -/
def cmdStep (s : State) : Host.Outcome State Fault Refusal :=
  match s.cmd.queue with
  | [] => .next s
  | e :: _ =>
    match decode e.desc with
    | .instr i => exec i s
    | .illegal => .next (s.complete .illegal 0)
    | .badDesc => .next (s.complete .badDesc 0)

/-- The state after a CMD step, for a host read that races with it (20_memory.md R123). -/
def State.afterCmd (s : State) : State :=
  match cmdStep s with
  | .next t => t
  | .fault _ => s
  | .refused _ => s

/-- One turn: an agent that is not enabled changes nothing (10_state.md R61, 46_control.md R454). -/
def runTurn (t : Turn) (s : State) : Host.Outcome State Fault Refusal :=
  match t with
  | .host a => .next (s.hostAccess s.afterCmd a)
  | .acq => .next s.acqStep
  | .sync => .next s.syncStep
  | .nosample => .next s.nosampleStep
  | .demod => .next s.demodStep
  | .msc => .next s.mscStep
  | .sfa => .next s.sfaStep
  | .cmd => cmdStep s
  | .hardwareReset => .next s.hardwareReset

/-- The end of a turn (46_control.md R452). -/
def settleOutcome (o : Host.Outcome State Fault Refusal) : Host.Outcome State Fault Refusal :=
  match o with
  | .next s => .next s.settle
  | .fault f => .fault f
  | .refused r => .refused r

/-- The command queue with a descriptor as its head, the rest of the queue behind it: the entry the next
CMD step executes (30_encoding.md R150). -/
def State.withHead (s : State) (d : Descriptor) : State :=
  let e : CmdEntry := ⟨d, (s.cmd.queue.head?.map (·.seq)).getD s.cmd.seq, [], []⟩
  { s with cmd := { s.cmd with queue := e :: s.cmd.queue.drop 1, held := none } }.noteDrain

end Sys2Proof.Machine
end

