-- ==== Sys2Proof/Machine/Step.lean ====
section
/-! DEFINITION. One step of the machine: one turn of one agent (10_state.md R33, R34; DESIGN CHOICE, log 1). -/

namespace Sys2Proof.Machine

/-- One step: the next turn is taken and ended (10_state.md R33, 46_control.md R452). -/
def step (s : State) : Host.Outcome State Fault Refusal :=
  settleOutcome (runTurn s.nextTurn s.beginTurn)

/-- The instruction whose lowest `nbits` bits are those of `w`, its other bits 0, as the head of CMDQ, and
the CMD agent to step next (DESIGN CHOICE, log 1). -/
def State.withFetchWord (s : State) (nbits w : Nat) : State :=
  let t := s.withHead (descriptorOfNat (w % 2 ^ nbits))
  { t with turns := .cmd :: t.turns }

end Sys2Proof.Machine
end

