-- ==== Sys2Proof/Exact.lean ====
section
/-! DEFINITION. Exact real arithmetic as an `Arith` (00_scope.md R18–R20): with it a numeric rule is the
formula of the spec. The machine computes in `Config.dsp`; claims about the formulas use this. -/

namespace Sys2Proof.Machine

/-- The complex number of a pair of reals. -/
noncomputable def toComplex (z : Cx ℝ) : ℂ := ⟨z.re, z.im⟩

/-- The pair of reals of a complex number. -/
noncomputable def ofComplex (z : ℂ) : Cx ℝ := ⟨z.re, z.im⟩

/-- The nearest integer, ties away from zero (40_sync_ofdm.md R234). -/
noncomputable def roundAway (t : ℝ) : ℤ := if 0 ≤ t then ⌊t + 1 / 2⌋ else ⌈t - 1 / 2⌉

/-- `e^(j·2π·p/n)`. -/
noncomputable def rootOfUnity (p : ℤ) (n : ℕ) : ℂ := Complex.exp (2 * Real.pi * Complex.I * (p / n))

/-! ## IEEE-754 binary32 (20_memory.md R106; 40_sync_ofdm.md R203) -/

open Classical in
/-- The natural number nearest to `x ≥ 0`, the even one of two. -/
noncomputable def realRoundHalfEven (x : ℝ) : ℕ :=
  let q := ⌊x⌋₊
  if x - q < 1 / 2 ∨ (x - q = 1 / 2 ∧ q % 2 = 0) then q else q + 1

/-- The exponent and fraction fields of the binary32 nearest to `x ≥ 0`: `binary32Magnitude` on the reals. -/
noncomputable def realBinary32Magnitude (x : ℝ) : ℕ :=
  let k := ⌊x * 2 ^ 149⌋₊.log2 - 23
  min 0x7F800000 (k * 2 ^ 23 + realRoundHalfEven (x * 2 ^ 149 / 2 ^ k))

open Classical in
/-- `bits32` of a real number: the nearest binary32, ties to even (40_sync_ofdm.md R203). -/
noncomputable def realBits32 (x : ℝ) : Word :=
  BitVec.ofBool (decide (x < 0)) ++ BitVec.ofNat 31 (realBinary32Magnitude |x|)

/-- The value of a binary32 word; one that is no number, a NaN or an infinity, has the value `special`. -/
noncomputable def realOfSingle (special : Word → ℝ) (w : Word) : ℝ :=
  if binary32Special w then special w else binary32Numerator w / 2 ^ 149

open Classical in
/-- Exact real arithmetic; only `toSingle`, the conversion to binary32, rounds. `special` is what a NaN or an
infinity read from BUF counts as, which no source gives (40_sync_ofdm.md R250). -/
noncomputable def exactArith (special : Word → ℝ) : Arith ℝ where
  dyadic m e := m / 2 ^ e
  ofSingle := realOfSingle special
  toSingle := realBits32
  add := (· + ·)
  sub := (· - ·)
  mul := (· * ·)
  div := (· / ·)
  neg := (- ·)
  abs := fun x => |x|
  le x y := decide (x ≤ y)
  lt x y := decide (x < y)
  rnd := roundAway
  sum := List.sum
  dot ps := ofComplex ((ps.map fun p => toComplex p.1 * toComplex p.2).sum)
  root p n := ofComplex (rootOfUnity p n)
  cis t := ofComplex (Complex.exp (t * Complex.I))
  modulus z := ‖toComplex z‖
  arg z := (toComplex z).arg
  timesTwoPi t := 2 * Real.pi * t
  modTwoPi t := t - 2 * Real.pi * ⌊t / (2 * Real.pi)⌋

end Sys2Proof.Machine
end

