-- ==== Sys2Proof/Safety.lean ====
section
/-! DEFINITION. What a safe state is, in the words claims use: the ranges and bounds 10_state.md gives the
pieces of state. -/

namespace Sys2Proof.Machine

/-- BUF is in its canonical form (20_memory.md R100; DESIGN CHOICE, log 2). -/
def State.MemoryCanonical (s : State) : Prop := memWf s.buf

/-- No queue holds more than its capacity (10_state.md R31, R60, R61). -/
structure State.QueuesBounded (s : State) : Prop where
  iqf : s.q.iqf.length ≤ Config.iqFifoBytes
  sampq : s.q.sampq.length ≤ Config.sampqDepth
  symq : s.q.symq.length ≤ Config.symqDepth
  ficq : s.q.ficq.length ≤ Config.ficqDepth
  mscq : s.q.mscq.length ≤ Config.mscqDepth
  sfq : s.q.sfq.length ≤ Config.sfqDepth
  auq : 4 * s.q.auq.length ≤ Config.auqBytes
  cmdq : s.cmd.queue.length ≤ cmdqDepth

/-- A selection whose EEP parameters and slice are defined (10_state.md R48): a legal bitrate, the
sub-channel size the EEP table gives, and a slice inside the 864 capacity units of a CIF. -/
structure Selection.Sound (a : Selection) : Prop where
  bitrate : bitrateLegal a.profile a.bitrate.toNat = true
  size : a.sizeCu.toNat = (eepRow a.profile (a.levelM1.toNat + 1) a.bitrate.toNat).size
  slice : a.startCu.toNat + a.sizeCu.toNat ≤ 864

/-- Every valid selection the block holds is sound (10_state.md R47, R48). -/
structure State.SelectionsSound (s : State) : Prop where
  act : s.sel.act.valid = true → s.sel.act.Sound
  held : ∀ a, s.cmd.held = some a → a.valid = true ∧ a.Sound

/-- The counts of SYNC are in their ranges (10_state.md R50; 40_sync_ofdm.md R204, R212). -/
structure SyncState.InRange (k : SyncState) : Prop where
  env : k.env.length = envWin
  envPtr : k.envPtr < envWin
  fill : k.fill ≤ envWin
  filling : k.phase = .fill → k.fill < envWin
  c : k.c ≤ syncTimeout
  coarse : -1024 ≤ k.coarse ∧ k.coarse ≤ 1023
  symbol : k.l ≤ symbolsPerFrame
  window : k.W.length ≤ Tu

/-- The counts of DEMOD, MSC and SFA are in their ranges between steps (10_state.md R51; 45_superframe.md
R400). -/
structure State.AgentsInRange (s : State) : Prop where
  cif : s.demod.cif.length < cifSymbols
  cifNum : s.demod.cifNum < 4
  ti : s.msc.ti.length = interleaverDepth
  tiW : s.msc.tiW < interleaverDepth
  tiFill : s.msc.tiFill ≤ 15
  store : s.sfa.store.length ≤ 4

end Sys2Proof.Machine
end

