-- ==== Sys2Proof/Certificates/Slice0/Obligations.lean ====
section
/-! DEFINITION. The statements for the provers, and the words they use. The words of `Sys2Proof.Claims` are
written from the spec's rules, not from the model's own update functions. -/

namespace Sys2Proof.Claims

open Sys2Proof.Machine

/-! ## Words: memory, events, completion -/

/-- No byte of BUF changes. -/
def SameBuf (s t : State) : Prop := ∀ a, t.bufByte a = s.bufByte a

/-- The `n` bytes of BUF from offset `a` on become `bs`, and every other byte reads as before. At an offset in
`overwritten`, which the host wrote while the writing command executed, the host's byte may stay
(93_implementation_defined.md I14; log 3). -/
structure Wrote (s t : State) (a n : Nat) (bs : List Byte) (overwritten : List Nat) : Prop where
  length : bs.length = n
  inside : ∀ i (h : i < bs.length), t.bufByte (a + i) = bs[i] ∨
    (a + i ∈ overwritten ∧ t.bufByte (a + i) = s.bufByte (a + i))
  outside : ∀ x, x < a ∨ a + n ≤ x → t.bufByte x = s.bufByte x

/-- The state after the event of code `c`, of class E when `isError`, is raised with its info, and nothing else
(60_exceptions.md R472). -/
def withEvent (s : State) (c : Nat) (isError : Bool) (info : Word) : State :=
  { s with ev :=
    { irqStatus := s.ev.irqStatus ||| BitVec.ofNat 25 (2 ^ c)
      irqEnable := s.ev.irqEnable
      errCause := if isError then BitVec.ofNat 32 (256 + c) else s.ev.errCause
      errInfo := if isError then info else s.ev.errInfo } }

/-- The events with their codes and whether they are of class E (60_exceptions.md R470). -/
def eventTable : List (Event × Nat × Bool) :=
  [(.frameDone, 0, false), (.syncTimeout, 1, true), (.peakFail, 2, true), (.nosample, 3, true),
   (.ficReady, 4, false), (.ficDrop, 5, true), (.cifStale, 6, false), (.subchSwap, 7, false),
   (.subchReject, 8, true), (.rsCorrected, 9, false), (.rsUncorr, 10, true), (.fireFail, 11, true),
   (.sfSync, 12, false), (.sfLost, 13, true), (.auReady, 14, false), (.auCrcFail, 15, true),
   (.auMalformed, 16, true), (.auDrop, 17, true), (.format, 18, false), (.cmdDone, 19, false),
   (.cmdErr, 20, true), (.cmdQfull, 21, true), (.iqOverflow, 22, true), (.halted, 23, false),
   (.busErr, 24, true)]

/-- One event of code `c`, of class E when `isError`, is recorded with its info (60_exceptions.md R472). -/
structure Recorded (s t : State) (c : Nat) (isError : Bool) (info : Word) : Prop where
  status : t.ev.irqStatus = s.ev.irqStatus ||| BitVec.ofNat 25 (2 ^ c)
  enable : t.ev.irqEnable = s.ev.irqEnable
  cause : t.ev.errCause = if isError then BitVec.ofNat 32 (256 + c) else s.ev.errCause
  info : t.ev.errInfo = if isError then info else s.ev.errInfo

/-- The data outcomes and `OK`: the results that are no command error (30_encoding.md R151). -/
def noCommandError : List ResultCode := [.ok, .uncorrectable, .crcMismatch, .peakFail]

/-- The entry at the head of a queue is a DRAIN. -/
def DrainAtHead (queue : List CmdEntry) : Prop := ∃ e rest, queue = e :: rest ∧ decode e.desc = .instr .drain

/-- The command `e` at the head of CMDQ completes with result `r` and value `v`, `rest` being left in CMDQ
(30_encoding.md R150; the counts of a DRAIN that becomes the head: 46_control.md R441). What may change is
CMD, the events, CNT_CMD_ERR, the queues and BUF: a statement says of the last two what happens to them. -/
structure CompletedAs (s t : State) (e : CmdEntry) (rest : List CmdEntry) (r : ResultCode) (v : Word) :
    Prop where
  cmd : t.cmd = { s.cmd with
    result := v, lastResult := r, lastSeq := e.seq, done := true, queue := rest, held := none,
    drainM := t.cmd.drainM, drainS := t.cmd.drainS }
  drainRecorded : DrainAtHead rest →
    t.cmd.drainM = t.q.mscq.length ∧ t.cmd.drainS = t.q.sfq.length
  drainKept : ¬ DrainAtHead rest → t.cmd.drainM = s.cmd.drainM ∧ t.cmd.drainS = s.cmd.drainS
  irqStatus : t.ev.irqStatus = s.ev.irqStatus ||| BitVec.ofNat 25 (2 ^ 19)
    ||| (if r ∈ noCommandError then 0 else BitVec.ofNat 25 (2 ^ 20))
  irqEnable : t.ev.irqEnable = s.ev.irqEnable
  errCause : t.ev.errCause = if r ∈ noCommandError then s.ev.errCause else 0x114
  errInfo : t.ev.errInfo = if r ∈ noCommandError then s.ev.errInfo else
    (r.code.zeroExtend 32 <<< 16) ||| e.seq.zeroExtend 32
  counters : t.live = if r ∈ noCommandError then s.live else
    { s.live with cmdErr := s.live.cmdErr + 1 }
  frame : t = { s with cmd := t.cmd, ev := t.ev, live := t.live, q := t.q, buf := t.buf }

/-- A completion that touches neither BUF nor the queues. -/
def CompletedOnly (s t : State) (e : CmdEntry) (rest : List CmdEntry) (r : ResultCode) (v : Word) : Prop :=
  CompletedAs s t e rest r v ∧ t.q = s.q ∧ SameBuf s t

/-- The commands `rest` left in CMDQ become `queue` when a command writes the bytes `bs` from `dst` on: at an
offset where a host write races with one of them, it may read the byte written and the byte there before, and
nothing else changes (20_memory.md R123; log 3). -/
structure RacesNoted (s : State) (rest queue : List CmdEntry) (dst : Nat) (bs : List Byte) : Prop where
  same : queue.map (fun e => (e.desc, e.seq, e.overwritten)) = rest.map fun e => (e.desc, e.seq, e.overwritten)
  raced : ∀ (k : Nat) (e f : CmdEntry), rest[k]? = some e → queue[k]? = some f → ∀ c, c ∈ f.raced ↔
    c ∈ e.raced ∨ ∃ i, ∃ h : i < bs.length, c.1 = dst + i ∧ (∃ b, (dst + i, b) ∈ e.raced) ∧
      (c.2 = bs[i] ∨ c.2 = s.bufByte (dst + i))

/-- A completion that writes the `n` bytes `bs` to BUF from `dst` on and touches no queue but the races noted
in CMDQ. -/
def CompletedWriting (s t : State) (e : CmdEntry) (rest : List CmdEntry) (r : ResultCode) (v : Word)
    (dst n : Nat) (bs : List Byte) : Prop :=
  CompletedAs s t e t.cmd.queue r v ∧ t.q = s.q ∧ Wrote s t dst n bs e.overwritten ∧
    RacesNoted s rest t.cmd.queue dst bs

/-! ## Words: operands -/

/-- A region of `len` bytes at `off` lies inside BUF, aligned to `al` (20_memory.md R112). -/
abbrev InBuf (off len al : Nat) : Prop := off % al = 0 ∧ off + len ≤ 262144

/-- The BUF regions of a command: offset, length, alignment (30_encoding.md R143), but for `INJMSC` and
`INJSF`, whose lengths depend on the selection. -/
def regions : Instr → List (Nat × Nat × Nat)
  | .nop => []
  | .fft _ src dst => [(src.toNat, 16384, 8), (dst.toNat, 16384, 8)]
  | .findidx src => [(src.toNat, 16384, 8)]
  | .coarse src => [(src.toNat, 16384, 8)]
  | .ddemod src dst cur => [(src.toNat, 16384, 8), (cur.toNat, 16384, 8), (dst.toNat, 3072, 1)]
  | .vitdec src dst n => [(src.toNat, 4 * (n.toNat + 6), 1), (dst.toNat, (n.toNat + 7) / 8, 1)]
  | .depunct src dst b p l =>
      [(src.toNat, 64 * (eepRow p (l.toNat + 1) b.toNat).size, 1),
       (dst.toNat, 4 * (24 * b.toNat + 6), 1)]
  | .descr src dst n => [(src.toNat, (n.toNat + 7) / 8, 1), (dst.toNat, (n.toNat + 7) / 8, 1)]
  | .rsdec src dst => [(src.toNat, 120, 1), (dst.toNat, 120, 1)]
  | .sfchk src dst cw => [(src.toNat, 120 * cw.toNat, 1), (dst.toNat, 120 * cw.toNat, 1)]
  | .firecrc src => [(src.toNat, 9, 1)]
  | .crc16 src n => [(src.toNat, n.toNat, 1)]
  | .injmsc _ => []
  | .injsf _ => []
  | .drain => []

/-- A command may execute: its PARAM is legal and its regions lie in BUF (30_encoding.md R152). -/
abbrev Executable (i : Instr) : Prop := i.wellFormed = true ∧ ∀ r ∈ regions i, InBuf r.1 r.2.1 r.2.2

/-- An injecting command past its checks uses the selection `a`: the copy it has held since its check, or
`act`, which is valid and gives a region inside BUF (30_encoding.md R152, 46_control.md R442; log 10). -/
abbrev InjectsWith (s : State) (src : BufOffset) (len : Selection → Nat) (a : Selection) : Prop :=
  s.cmd.held = some a ∨
  (s.cmd.held = none ∧ s.sel.act.valid = true ∧ a = s.sel.act ∧ InBuf src.toNat (len a) 1)

/-- The number of soft bits of a fragment of a selection (30_encoding.md R143). -/
def softLength (a : Selection) : Nat := 64 * a.sizeCu.toNat

/-- The number of bytes of a CIF payload of a selection (30_encoding.md R143). -/
def byteLength (a : Selection) : Nat := 3 * a.bitrate.toNat

/-! ## Words: turns and host accesses -/

/-- A streaming agent may step (46_control.md R454). -/
abbrev MayStream (s : State) : Prop :=
  s.ctl.run = true ∧ s.ctl.stopReq = false ∧ s.ctl.finished = false

/-- The next turn is a 32-bit host write of `v` to the CSR at `offset`. -/
abbrev HostWrites (s : State) (offset : HostAddr) (v : Word) : Prop :=
  s.nextTurn = .host (.write offset .w32 v)

/-- The next turn resets the block: the reset input, or `CTRL.SOFT_RESET` (70_reset_and_hazards.md R510,
R511). -/
def Resets (s : State) : Prop :=
  s.nextTurn = .hardwareReset ∨ ∃ v : Word, HostWrites s 0x004 v ∧ v.getLsbD 3 = true

/-- The bytes of an access of a width. -/
def widthBytes : Width → Nat
  | .w8 => 1
  | .w16 => 2
  | .w32 => 4

/-- An access that is a bus error: a reserved address, or a CSR or BUF access of a wrong width or alignment
(20_memory.md R102, R110, R111). -/
abbrev IsBusError (a : Nat) (w : Width) : Prop :=
  (0x1000 ≤ a ∧ a < 0x40000) ∨ 0x80000 ≤ a ∨
  (a < 0x1000 ∧ (w ≠ .w32 ∨ a % 4 ≠ 0)) ∨
  (0x40000 ≤ a ∧ a < 0x80000 ∧ a % widthBytes w ≠ 0)

/-- A naturally aligned access to BUF offset `o` (20_memory.md R100, R111). -/
abbrev IsBufAccess (a : Nat) (w : Width) (o : Nat) : Prop :=
  a = 0x40000 + o ∧ o < 262144 ∧ a % widthBytes w = 0

/-- The three bits of a SYNC phase (10_state.md R38). -/
def phaseCode : Phase → BitVec 3
  | .idle => 0
  | .fill => 1
  | .nullSearch => 2
  | .nullExit => 3
  | .capture => 4
  | .symbols => 5

/-- The value of `STATUS`, field by field from bit 31 down (10_state.md R38). -/
def statusValue (s : State) : Word :=
  0#16 ++ BitVec.ofBool s.sfa.fmtValid ++ BitVec.ofBool (s.q.iqf.length % 2 == 1)
    ++ BitVec.ofBool s.sel.act.valid ++ BitVec.ofBool s.ctl.finishReq ++ BitVec.ofBool s.ctl.stopReq
    ++ BitVec.ofBool s.ctl.stopped ++ BitVec.ofBool s.ctl.finished
    ++ BitVec.ofBool (0 < s.cmd.queue.length) ++ BitVec.ofNat 3 s.sfa.store.length
    ++ BitVec.ofBool (s.sfa.phase == .synced) ++ BitVec.ofBool s.meas.frameLock ++ phaseCode s.sync.phase

/-- The value of `CMD_STATUS`, field by field from bit 31 down (10_state.md R42). -/
def cmdStatusValue (s : State) : Word :=
  s.cmd.lastSeq ++ 0#4 ++ BitVec.ofNat 4 s.cmd.queue.length ++ s.cmd.lastResult.code ++ 0#1
    ++ BitVec.ofBool s.cmd.qfull ++ BitVec.ofBool s.cmd.done ++ BitVec.ofBool (0 < s.cmd.queue.length)

/-- The registers whose read has no side effect, with the values they read (10_state.md R36, R37, R52;
20_memory.md R116). -/
def csrReads (s : State) : List (HostAddr × Word) :=
  [(0x000, 0xDAB00100), (0x004, 0#27 ++ BitVec.ofBool s.ctl.irqEn ++ 0#3 ++ BitVec.ofBool s.ctl.run),
   (0x008, statusValue s), (0x00C, s.ev.irqStatus.setWidth 32), (0x010, s.ev.irqEnable.setWidth 32),
   (0x014, s.ev.errCause), (0x018, s.ev.errInfo), (0x01C, s.meas.frameCount), (0x020, s.meas.signalLevel),
   (0x024, s.meas.coarseCorr), (0x028, s.meas.fineCorr), (0x02C, s.meas.lastIndex), (0x030, s.meas.oscPhase),
   (0x040, s.sel.stage0), (0x044, s.sel.stage1),
   (0x048, 0#15 ++ BitVec.ofBool s.sel.rejected ++ s.sel.act.generation),
   (0x04C, 0#6 ++ s.sel.act.sizeCu ++ s.sel.act.startCu ++ s.sel.act.subchId),
   (0x050, 0#17 ++ s.sel.act.levelM1 ++ BitVec.ofBool (s.sel.act.profile == .B) ++ 0#1 ++ s.sel.act.bitrate),
   (0x080, s.snap.syncTimeout), (0x084, s.snap.peakFail), (0x088, s.snap.nosample), (0x08C, s.snap.frames),
   (0x090, s.snap.ficBlocks), (0x094, s.snap.cifIn), (0x098, s.snap.cifStale), (0x09C, s.snap.rsCorr),
   (0x0A0, s.snap.rsUncorr), (0x0A4, s.snap.fireFail), (0x0A8, s.snap.sfOk), (0x0AC, s.snap.auOk),
   (0x0B0, s.snap.auCrcFail), (0x0B4, s.snap.auMalformed), (0x0B8, s.snap.cmdErr),
   (0x0BC, s.snap.iqOverflow), (0x0C0, s.snap.ficDrop), (0x0C4, s.snap.auDrop),
   (0x0FC, s.snapSeq.setWidth 32), (0x108, BitVec.ofNat 32 (Config.iqFifoBytes - s.q.iqf.length)),
   (0x114, BitVec.ofNat 32 s.q.ficq.flatten.length), (0x124, BitVec.ofNat 32 s.q.auq.length),
   (0x200, s.cmd.w0), (0x204, s.cmd.w1), (0x208, s.cmd.w2), (0x20C, s.cmd.w3),
   (0x214, cmdStatusValue s), (0x218, s.cmd.result), (0x21C, s.cmd.seq.setWidth 32)]

/-- The offsets of the CSR map: every other one is reserved (10_state.md R35, R36). -/
def listedOffsets : List HostAddr :=
  [0x000, 0x004, 0x008, 0x00C, 0x010, 0x014, 0x018, 0x01C, 0x020, 0x024, 0x028, 0x02C, 0x030, 0x040, 0x044,
   0x048, 0x04C, 0x050, 0x080, 0x084, 0x088, 0x08C, 0x090, 0x094, 0x098, 0x09C, 0x0A0, 0x0A4, 0x0A8, 0x0AC,
   0x0B0, 0x0B4, 0x0B8, 0x0BC, 0x0C0, 0x0C4, 0x0FC, 0x100, 0x104, 0x108, 0x110, 0x114, 0x120, 0x124, 0x200,
   0x204, 0x208, 0x20C, 0x210, 0x214, 0x218, 0x21C]

/-- The offsets of the registers a write changes or acts on (10_state.md R36). -/
def writable : List HostAddr :=
  [0x004, 0x00C, 0x010, 0x040, 0x044, 0x048, 0x0FC, 0x100, 0x104, 0x200, 0x204, 0x208, 0x20C, 0x210, 0x214]

/-- The state after a write of `v` to `CTRL`: SOFT_RESET, which leaves BUF and the model's own fields, then
RUN and IRQ_EN, then STOP, which a second time has no effect, then FINISH (10_state.md R37, 46_control.md
R450, R452, 70_reset_and_hazards.md R511; logs 5, 22). -/
def controlled (s : State) (v : Word) : State :=
  let kept : State := if v.getLsbD 3 = true then
      { State.reset with
        buf := s.buf, bufEpoch := s.bufEpoch, hostData := s.hostData, turns := s.turns, tick := s.tick }
    else s
  let enabled : State := { kept with ctl := { kept.ctl with run := v.getLsbD 0, irqEn := v.getLsbD 4 } }
  let halted : State := if v.getLsbD 1 = true ∧ enabled.ctl.stopReq = false then
      withEvent { enabled with ctl := { enabled.ctl with stopReq := true, stopped := true } } 23 false 1
    else enabled
  if v.getLsbD 2 = true then { halted with ctl := { halted.ctl with finishReq := true } } else halted

/-- The condition of 46_control.md R452, in a block that has not finished. -/
abbrev Finishes (s : State) : Prop :=
  s.ctl.finishReq = true ∧ s.ctl.stopReq = false ∧ s.ctl.finished = false ∧ s.q.iqf.length < 2 ∧
  s.q.sampq = [] ∧ s.q.symq = [] ∧ s.q.mscq = [] ∧ s.q.sfq = []

/-- The staged fields of a selection fail check `n` of 10_state.md R48. -/
def FailsCheck (a : Selection) (n : Nat) : Prop :=
  (n = 2 ∧ ¬ (∃ m : Nat, 1 ≤ m ∧ a.bitrate.toNat = (if a.profile = .A then 8 else 32) * m)) ∨
  (n = 3 ∧ a.sizeCu.toNat ≠ (eepRow a.profile (a.levelM1.toNat + 1) a.bitrate.toNat).size) ∨
  (n = 4 ∧ 864 < a.startCu.toNat + a.sizeCu.toNat)

/-- The selection that the staging registers hold, valid, of the generation after `g` (10_state.md R36,
R47). -/
def staged (s : State) : Selection where
  subchId := s.sel.stage0.extractLsb' 0 6
  startCu := s.sel.stage0.extractLsb' 6 10
  sizeCu := s.sel.stage0.extractLsb' 16 10
  bitrate := s.sel.stage1.extractLsb' 0 11
  profile := if s.sel.stage1.getLsbD 12 = true then .B else .A
  levelM1 := s.sel.stage1.extractLsb' 13 2
  valid := true
  generation := s.sel.act.generation + 1

/-! ## Words: invariants -/

/-- The counts of the streaming agents are in their ranges (10_state.md R50, R51). -/
structure CountsInRange (s : State) : Prop where
  sync : s.sync.InRange
  agents : s.AgentsInRange

/-- A DRAIN at the head of CMDQ waits for no more entries than MSCQ and SFQ hold (46_control.md R441). -/
def DrainCounted (s : State) : Prop :=
  DrainAtHead s.cmd.queue → s.cmd.drainM ≤ s.q.mscq.length ∧ s.cmd.drainS ≤ s.q.sfq.length

/-! ## Words: SYNC (computed in `Config.dsp`, log 4) -/

/-- The integer `i` as a number. -/
def num (i : Int) : Num := .dyadic i 0

/-- `y = x · e^(−jθ)` (40_sync_ofdm.md R203, R205). -/
def rotated (k : SyncState) (x : Cx Num) : Cx Num :=
  Config.dsp.dot [(x, Config.dsp.cis (Config.dsp.neg k.theta))]

/-- `‖y‖₁ = |re| + |im|` (40_sync_ofdm.md R203). -/
def norm (y : Cx Num) : Num := Config.dsp.add (Config.dsp.abs y.re) (Config.dsp.abs y.im)

/-- `θ + 2π·(coarse·1000 + fine)/2048000`, modulo 2π (40_sync_ofdm.md R203). -/
def turned (k : SyncState) : Num :=
  let A := Config.dsp
  A.modTwoPi (A.add k.theta
    (A.div (A.timesTwoPi (A.add (A.mul (num k.coarse) (num 1000)) k.fine)) (num 2048000)))

/-- `(1 − LEVEL_ALPHA)·lvl + LEVEL_ALPHA·e` (40_sync_ofdm.md R203, R206). -/
def averaged (k : SyncState) (e : Num) : Num :=
  let A := Config.dsp
  A.add (A.mul (A.sub (num 1) Config.levelAlpha) k.lvl) (A.mul Config.levelAlpha e)

/-- `take()` of the oldest sample `x`, `rest` being left in SAMPQ (40_sync_ofdm.md R203). -/
def taken (s : State) (x : Cx Num) (rest : List (Cx Num)) : State :=
  let theta := turned s.sync
  let lvl := averaged s.sync (norm (rotated s.sync x))
  { s with
    q := { s.q with sampq := rest }
    sync := { s.sync with theta := theta, lvl := lvl, nsArmed := true }
    meas := { s.meas with
      signalLevel := Config.dspToSingle lvl
      oscPhase := Config.dspToSingle theta } }

/-- A step that consumes one sample: it holds while SAMPQ is empty, and else takes the oldest sample and does
`f` with the mixed sample and its L1-norm (40_sync_ofdm.md R203, R210). -/
def consumes (s : State) (f : SyncState → Cx Num → Num → SyncState) : State :=
  match s.q.sampq with
  | [] => s
  | x :: rest =>
    let y := rotated s.sync x
    { taken s x rest with sync := f (taken s x rest).sync y (norm y) }

/-- `slide(e)` and the phase counter (40_sync_ofdm.md R207, R210). -/
def slid (k : SyncState) (e : Num) : SyncState :=
  { k with
    envSum := Config.dsp.add (Config.dsp.sub k.envSum (k.env.getD k.envPtr (num 0))) e
    env := k.env.set k.envPtr e
    envPtr := (k.envPtr + 1) % 50
    c := k.c + 1 }

/-- `env_sum/50` (40_sync_ofdm.md R207). -/
def windowAverage (k : SyncState) : Num := Config.dsp.div k.envSum (num 50)

/-- `restart()` (40_sync_ofdm.md R211). -/
def restarted (s : State) : State :=
  { s with
    q := { s.q with symq :=
      if s.sync.phase = .symbols then s.q.symq ++ [.abort s.sync.fseq] else s.q.symq }
    meas := { s.meas with frameLock := false }
    sync := { s.sync with
      fseq := if s.sync.phase = .symbols then s.sync.fseq + 1 else s.sync.fseq
      phase := .fill, fill := 0, envSum := num 0, envPtr := 0, c := 0, W := [], coarsePend := 0
      P := ⟨num 0, num 0⟩ } }

/-- `timeout()` (40_sync_ofdm.md R212). -/
def timedOut (s : State) : State :=
  restarted (withEvent { s with live := { s.live with syncTimeout := s.live.syncTimeout + 1 } } 1 true
    ((phaseCode s.sync.phase).setWidth 32))

/-- `arg(P)·Δf/(2π)`, arg(0) being 0 (40_sync_ofdm.md R222). -/
def residualOffset (p : Cx Num) : Num :=
  let A := Config.dsp
  let angle := if A.le (A.modulus p) (num 0) then num 0 else A.arg p
  A.div (A.mul angle (num 1000)) (A.timesTwoPi (num 1))

/-- The fold of a fine correction beyond ±500 Hz into the coarse one (40_sync_ofdm.md R226). -/
def folded (coarse : Int) (fine : Num) : Int × Num :=
  let A := Config.dsp
  if A.lt (num 500) fine then (coarse + 1, A.sub fine (num 1000))
  else if A.lt fine (A.neg (num 500)) then (coarse - 1, A.add fine (num 1000))
  else (coarse, fine)

/-- `frame_end()` (40_sync_ofdm.md R227). -/
def frameEnded (s : State) : State :=
  let A := Config.dsp
  let k := s.sync
  let r := folded (k.coarse + k.coarsePend) (A.add k.fine (A.mul Config.fineGain (residualOffset k.P)))
  let coarse := max (-1024) (min 1023 r.1)
  let t : State := { s with
    sync := { k with
      coarse := coarse, fine := r.2, fseq := k.fseq + 1, coarsePend := 0, P := ⟨num 0, num 0⟩
      phase := .fill, fill := 0, envSum := num 0, envPtr := 0 }
    meas := { s.meas with
      coarseCorr := BitVec.ofInt 32 coarse, fineCorr := Config.dspToSingle r.2
      frameCount := s.meas.frameCount + 1, frameLock := true }
    live := { s.live with frames := s.live.frames + 1 } }
  withEvent t 0 false k.fseq

/-- `symbol_done()` (40_sync_ofdm.md R221). -/
def symbolEnded (s : State) : State :=
  let A := Config.dsp
  let k := s.sync
  let sum := A.dot ((List.range 504).map fun n =>
    let g := k.G.getD n ⟨num 0, num 0⟩
    (k.S.getD (2048 - 504 + n) ⟨num 0, num 0⟩, ⟨g.re, A.neg g.im⟩))
  let estimated : SyncState := { k with
    coarsePend := if k.l = 1 then coarseEst A Config.coarseRange (fft A k.S) else k.coarsePend
    P := if 2 ≤ k.l then ⟨A.add k.P.re sum.re, A.add k.P.im sum.im⟩ else k.P }
  let pushed : State := { s with
    q := { s.q with symq := s.q.symq ++ [.symbol k.fseq k.l k.S] }, sync := estimated }
  if k.l = 76 then frameEnded pushed
  else { pushed with sync := { estimated with l := k.l + 1, part := .guard, G := [] } }

/-! ## Words: SFA -/

/-- Byte `i` of a window. -/
def byteAt (w : List Byte) (i : Nat) : Byte := w.getD i 0

/-- The words that hold a list of bytes, the first in bits [7:0], unused bytes 0 (40_sync_ofdm.md R244,
45_superframe.md R418). -/
def packedWords (bs : List Byte) : List Word :=
  (List.range ((bs.length + 3) / 4)).map fun q =>
    byteAt bs (4 * q + 3) ++ byteAt bs (4 * q + 2) ++ byteAt bs (4 * q + 1) ++ byteAt bs (4 * q)

/-- A record appended to the AU record stream with the event of code `c`, or, where AUQ has no room, dropped
whole, counted and reported (45_superframe.md R412, R418). -/
def emitted (s : State) (record : List Word) (c : Nat) (dropInfo : Word) : State :=
  if 4 * s.q.auq.length + 4 * record.length ≤ Config.auqBytes then
    withEvent { s with q := { s.q with auq := s.q.auq ++ record } } c false (record.headD 0)
  else
    withEvent { s with live := { s.live with auDrop := s.live.auDrop + 1 } } 17 true dropInfo

/-- Codeword `j` of a window of `cw` interleaved ones (45_superframe.md R404). -/
def interleaved (w : List Byte) (cw j : Nat) : List Byte :=
  (List.range 120).map fun k => byteAt w (k * cw + j)

/-- The number of audio units and the header length of a format byte (45_superframe.md R410, R411). -/
def headerShape (format : Byte) : Nat × Nat :=
  if format.getLsbD 6 = false then (if format.getLsbD 5 = false then (4, 8) else (2, 5))
  else (if format.getLsbD 5 = false then (6, 11) else (3, 6))

/-- The start of audio unit `i` ≥ 1: the `i`-th 12-bit field from W[3] on, two fields in three bytes
(45_superframe.md R410). -/
def startField (w : List Byte) (i : Nat) : Nat :=
  let b := 3 + 3 * ((i - 1) / 2)
  if i % 2 = 1 then (byteAt w b).toNat * 16 + (byteAt w (b + 1)).toNat / 16
  else (byteAt w (b + 1)).toNat % 16 * 256 + (byteAt w (b + 2)).toNat

/-- The header cache of a window (45_superframe.md R412). -/
def header (w : List Byte) : Format :=
  let n := headerShape (byteAt w 2)
  { byte2 := byteAt w 2, numAus := n.1, h := n.2
    auStart := if Config.auOffsetsPerSf then []
      else (List.range (n.1 - 1)).map fun i => startField w (i + 1) }

/-- The FORMAT record (45_superframe.md R412). -/
def formatWords (f : Format) : List Word :=
  [0xF0#8 ++ BitVec.ofNat 8 f.numAus ++ f.byte2 ++ 0#8,
   if f.byte2.getLsbD 6 = true then 48000 else 32000,
   0x1000 + (if f.byte2.getLsbD 4 = true ∨ f.byte2.getLsbD 3 = true then 2 else 1)]

/-- `st[i]` of a window of `cw` codewords (45_superframe.md R414). -/
def unitStart (f : Format) (w : List Byte) (cw i : Nat) : Nat :=
  if i = 0 then f.h
  else if i = f.numAus then 110 * cw
  else if Config.auOffsetsPerSf then startField w i
  else f.auStart.getD (i - 1) 0

/-- The counters and events of `RSWindow` (45_superframe.md R404). -/
def windowCounted (s : State) (ncorr nunc : Nat) : State :=
  let t : State := { s with live := { s.live with
    rsCorr := s.live.rsCorr + BitVec.ofNat 32 ncorr, rsUncorr := s.live.rsUncorr + BitVec.ofNat 32 nunc } }
  let t := if 0 < ncorr then withEvent t 9 false (BitVec.ofNat 32 ncorr) else t
  if 0 < nunc then withEvent t 10 true (BitVec.ofNat 32 nunc) else t

/-- `pass(W, 0)` of a window of `cw` codewords: SYNCED, the super-frame counted, a FORMAT record where the
header cache is not valid, and the audio units in index order (45_superframe.md R405, R412, R414). -/
def passed (s : State) (w : List Byte) (cw : Nat) : State :=
  let synced : State := { s with sfa := { s.sfa with phase := .synced, store := [] } }
  let t := if s.sfa.phase = .accumulating then withEvent synced 12 false 0 else synced
  let t : State := { t with live := { t.live with sfOk := t.live.sfOk + 1 } }
  let t := if s.sfa.fmtValid then t else
    emitted { t with sfa := { t.sfa with fmt := header w, fmtValid := true } } (formatWords (header w)) 18
      0xFFFFFFFF
  let f := t.sfa.fmt
  (List.range f.numAus).foldl
    (fun u i => u.processAu w cw f.h i (unitStart f w cw i) (unitStart f w cw (i + 1))) t

/-- `fail(fire)` (45_superframe.md R406). -/
def failed (s : State) (fire : Bool) : State :=
  let t := if fire then s
    else withEvent { s with live := { s.live with fireFail := s.live.fireFail + 1 } } 11 true 0
  let t := if s.sfa.phase = .synced then withEvent t 13 true 0 else t
  { t with sfa := { t.sfa with phase := .accumulating, store := t.sfa.store.drop 1 } }

/-! ## Words: units -/

/-- The fragments of one generation fed to the time de-interleaver in order: what it answers to each
(44_deinterleave_msc.md R370). -/
def feed (n : Nat) : MscState → List (List SoftBit) → List (Option (List SoftBit))
  | _, [] => []
  | m, f :: fs => (deinterleave m f n).2 :: feed n (deinterleave m f n).1 fs

/-- The cost of a mother codeword against soft bits: for each bit 1 `255 − v`, for each bit 0 `v`
(41_viterbi.md R273, R274). -/
def codewordCost (code : List Bool) (soft : List SoftBit) : Nat :=
  ((code.zip soft).map fun x => if x.1 then 255 - softValue x.2 else softValue x.2).sum

/-- The soft bits of a codeword at full confidence: +127 for 1 and −127 for 0 (41_viterbi.md R279). -/
def cleanSoft (code : List Bool) : List SoftBit := code.map fun b => if b then 127 else -127

end Sys2Proof.Claims

open Sys2Proof Sys2Proof.Machine Sys2Proof.Claims

/-! ## Encoding -/

/-- Decoding the encoding of any instruction gives that instruction (30_encoding.md R140, R143, R148). -/
def Obligations.DecodeEncodeRoundTrip : Prop := ∀ i : Instr, decode (encode i) = .instr i

/-- A descriptor that decodes to an instruction is the encoding of it: no bit of a descriptor is ignored
(30_encoding.md R140, R144). -/
def Obligations.EncodeOfDecodedDescriptor : Prop :=
  ∀ (d : Descriptor) (i : Instr), decode d = .instr i → encode i = d

/-- The worked example of 30_encoding.md R148 and the words of four other rows of its table. -/
def Obligations.DecodeReadsWorkedWords : Prop :=
  decode ⟨0x00000005, 0x00000000, 0x00002000, 0x00000300⟩ = .instr (.vitdec 0x0000 0x2000 768) ∧
  decode ⟨0x00000101, 0x00000100, 0x00004000, 0⟩ = .instr (.fft true 0x100 0x4000) ∧
  decode ⟨0x00000006, 0x00000000, 0x00000400, 0x00004008⟩ = .instr (.depunct 0 0x400 8 .A 2) ∧
  decode ⟨0x0000000B, 0x00000100, 0, 0x0000006E⟩ = .instr (.crc16 0x100 110) ∧
  decode ⟨0x0000000E, 0, 0, 0⟩ = .instr .drain

/-- A reserved opcode completes with `ILLEGAL`, and a known one with a nonzero reserved bit with
`BAD_DESC`, with value 0, reading and writing nothing (30_encoding.md R144, R152). -/
def Obligations.UndecodableDescriptorCompletes : Prop :=
  ∀ (s : State) (e : CmdEntry) (rest : List CmdEntry), s.cmd.queue = e :: rest →
    (0x0F ≤ e.desc.w0.toNat % 256 → ∃ t, cmdStep s = .next t ∧ CompletedOnly s t e rest .illegal 0) ∧
    (e.desc.w0.toNat % 256 < 0x0F →
      (65536 ≤ e.desc.w0.toNat ∨ 262144 ≤ e.desc.w1.toNat ∨ 262144 ≤ e.desc.w2.toNat ∨
        decode e.desc = .badDesc) →
      ∃ t, cmdStep s = .next t ∧ CompletedOnly s t e rest .badDesc 0)

/-! ## Steps -/

/-- A step takes the first listed turn, in the state with that turn removed and one more step counted, and
ends it; a CMD turn takes the CMD step, whatever the head of CMDQ, and with CMDQ empty does nothing
(10_state.md R33, R34; 46_control.md R454; log 1). -/
def Obligations.StepTakesTheListedTurn : Prop :=
  ∀ (s : State) (u : Turn) (ts : List Turn), s.turns = u :: ts →
    let b := { s with turns := ts, tick := s.tick + 1 }
    (u = .acq → step s = .next b.acqStep.settle) ∧
    (u = .sync → step s = .next b.syncStep.settle) ∧
    (u = .nosample → step s = .next b.nosampleStep.settle) ∧
    (u = .demod → step s = .next b.demodStep.settle) ∧
    (u = .msc → step s = .next b.mscStep.settle) ∧
    (u = .sfa → step s = .next b.sfaStep.settle) ∧
    (u = .hardwareReset → step s = .next b.hardwareReset.settle) ∧
    (u = .cmd → ∃ t, cmdStep b = .next t ∧ step s = .next t.settle) ∧
    (u = .cmd → s.cmd.queue = [] → step s = .next b.settle) ∧
    (∀ a w, u = .host (.read a w) → step s = .next (b.hostRead b.afterCmd a w).settle) ∧
    (∀ a w v, u = .host (.write a w v) → step s = .next (b.hostWrite a w v).settle)

/-- When the head of CMDQ decodes to an instruction `i`, a CMD turn runs exactly `exec i`, in the state with
the turn removed and one more step counted, and ends the turn: when the conditions of 46_control.md R452
hold of the result, FINISHED is set, event HALTED (info 2) is raised and IQF is emptied, and otherwise
nothing more happens (30_encoding.md R150; logs 1, 15). -/
def Obligations.StepRunsTheDecodedCommand : Prop :=
  ∀ (s : State) (ts : List Turn) (e : CmdEntry) (rest : List CmdEntry) (i : Instr),
    s.turns = .cmd :: ts → s.cmd.queue = e :: rest → decode e.desc = .instr i →
    ∃ t, exec i { s with turns := ts, tick := s.tick + 1 } = .next t ∧
      ((t.drained && !t.ctl.finished) = false → step s = .next t) ∧
      ((t.drained && !t.ctl.finished) = true → step s = .next
        ({ t with ctl := { t.ctl with finished := true }, q := { t.q with iqf := [] } }.raise .halted 2))

/-- No error is fatal: every step of every state answers a next state (60_exceptions.md R471, R475). -/
def Obligations.NoStepStops : Prop := ∀ s : State, ∃ t, step s = .next t

/-! ## Commands: what each does, and its frame -/

/-- `NOP` completes with `OK` and value 0 and does nothing else (46_control.md R440). -/
def Obligations.NopCompletesOk : Prop :=
  ∀ (s : State) (e : CmdEntry) (rest : List CmdEntry), s.cmd.queue = e :: rest →
    ∃ t, exec .nop s = .next t ∧ CompletedOnly s t e rest .ok 0

/-- `FFT` and `FFT.INV` write the transform of the 2048 complex samples at `src` to `dst`
(40_sync_ofdm.md R250). That a number computed is stored as the nearest binary32, ties to even, is the model's
choice (log 4). -/
def Obligations.FftWritesTheTransform : Prop :=
  ∀ (s : State) (e : CmdEntry) (rest : List CmdEntry) (inv : Bool) (src dst : BufOffset),
    s.cmd.queue = e :: rest → Executable (.fft inv src dst) →
    ∃ t, exec (.fft inv src dst) s = .next t ∧
      CompletedWriting s t e rest .ok 0 dst.toNat 16384
        (bytesOfCxVector Config.dsp
          (if inv then ifft Config.dsp (cxVector Config.dsp 2048 (s.memRead src.toNat 16384))
           else fft Config.dsp (cxVector Config.dsp 2048 (s.memRead src.toNat 16384))))

/-- `FINDIDX` returns the index FindIndex finds, or `PEAK_FAIL` with value 0; `COARSE` returns the estimated
carrier shift in two's complement (40_sync_ofdm.md R251, R252). -/
def Obligations.FindidxAndCoarseReturnTheirEstimates : Prop :=
  ∀ (s : State) (e : CmdEntry) (rest : List CmdEntry) (src : BufOffset), s.cmd.queue = e :: rest →
    (Executable (.findidx src) → ∃ t, exec (.findidx src) s = .next t ∧
      match findIndex Config.dsp ⟨Config.binSize, Config.topK, Config.nearDist⟩
          (cxVector Config.dsp 2048 (s.memRead src.toNat 16384)) with
      | some d => CompletedOnly s t e rest .ok (BitVec.ofNat 32 d)
      | none => CompletedOnly s t e rest .peakFail 0) ∧
    (Executable (.coarse src) → ∃ t, exec (.coarse src) s = .next t ∧
      CompletedOnly s t e rest .ok (BitVec.ofInt 32 (coarseEst Config.dsp Config.coarseRange
        (fft Config.dsp (cxVector Config.dsp 2048 (s.memRead src.toNat 16384))))))

/-- `DDEMOD` writes the 3072 soft bits of two successive spectra (40_sync_ofdm.md R253). -/
def Obligations.DdemodWritesTheSoftBits : Prop :=
  ∀ (s : State) (e : CmdEntry) (rest : List CmdEntry) (src dst cur : BufOffset),
    s.cmd.queue = e :: rest → Executable (.ddemod src dst cur) →
    ∃ t, exec (.ddemod src dst cur) s = .next t ∧
      CompletedWriting s t e rest .ok 0 dst.toNat 3072
        (softBits Config.dsp Config.softScale
          (cxVector Config.dsp 2048 (s.memRead src.toNat 16384))
          (cxVector Config.dsp 2048 (s.memRead cur.toNat 16384)))

/-- `VITDEC` writes the N decoded bits, packed, and returns N (41_viterbi.md R280). -/
def Obligations.VitdecWritesTheDecodedBits : Prop :=
  ∀ (s : State) (e : CmdEntry) (rest : List CmdEntry) (src dst : BufOffset) (n : BitVec 20),
    s.cmd.queue = e :: rest → Executable (.vitdec src dst n) →
    ∃ t, exec (.vitdec src dst n) s = .next t ∧
      CompletedWriting s t e rest .ok (BitVec.ofNat 32 n.toNat) dst.toNat ((n.toNat + 7) / 8)
        (packBits (viterbi (s.memRead src.toNat (4 * (n.toNat + 6))) n.toNat))

/-- `DEPUNCT` writes the de-punctured soft bits and returns their number (42_eep_dispersal.md R305). -/
def Obligations.DepunctWritesTheMotherSoftBits : Prop :=
  ∀ (s : State) (e : CmdEntry) (rest : List CmdEntry) (src dst : BufOffset) (b : BitVec 11)
    (p : Profile) (l : BitVec 2),
    s.cmd.queue = e :: rest → Executable (.depunct src dst b p l) →
    ∃ t, exec (.depunct src dst b p l) s = .next t ∧
      CompletedWriting s t e rest .ok (BitVec.ofNat 32 (4 * (24 * b.toNat + 6))) dst.toNat
        (4 * (24 * b.toNat + 6))
        (depuncture (s.memRead src.toNat (64 * (eepRow p (l.toNat + 1) b.toNat).size)) p (l.toNat + 1)
          b.toNat)

/-- `DESCR` writes the first `nbits` bits descrambled, pad bits 0, and returns `nbits`
(42_eep_dispersal.md R312). -/
def Obligations.DescrWritesTheDescrambledBits : Prop :=
  ∀ (s : State) (e : CmdEntry) (rest : List CmdEntry) (src dst : BufOffset) (n : BitVec 21),
    s.cmd.queue = e :: rest → Executable (.descr src dst n) →
    ∃ t, exec (.descr src dst n) s = .next t ∧
      CompletedWriting s t e rest .ok (BitVec.ofNat 32 n.toNat) dst.toNat ((n.toNat + 7) / 8)
        (packBits (dedisperse (unpackBits (s.memRead src.toNat ((n.toNat + 7) / 8)) n.toNat)))

/-- `RSDEC` writes the corrected block and returns the number of corrections, or writes the block
unchanged and returns `UNCORRECTABLE` with value 0xFFFF_FFFF (43_reed_solomon.md R350). -/
def Obligations.RsdecWritesTheCorrectedBlock : Prop :=
  ∀ (s : State) (e : CmdEntry) (rest : List CmdEntry) (src dst : BufOffset),
    s.cmd.queue = e :: rest → Executable (.rsdec src dst) →
    ∃ t, exec (.rsdec src dst) s = .next t ∧
      match rsDecode (s.memRead src.toNat 120) with
      | some (c, n) => CompletedWriting s t e rest .ok (BitVec.ofNat 32 n) dst.toNat 120 c
      | none => CompletedWriting s t e rest .uncorrectable 0xFFFFFFFF dst.toNat 120
          (s.memRead src.toNat 120)

/-- A window of interleaved codewords is corrected codeword by codeword, an uncorrectable one staying as it is
(45_superframe.md R404); `SFCHK` writes the corrected window and returns its two counts; an uncorrectable
codeword takes precedence over a fire-code mismatch (R421). -/
def Obligations.SfchkChecksTheWindow : Prop :=
  (∀ (w : List Byte) (cw : Nat), (rsWindow w cw).bytes.length = 120 * cw ∧
    (∀ k j, k < 120 → j < cw → (rsWindow w cw).bytes[k * cw + j]? =
      match rsDecode (interleaved w cw j) with
      | some (c, _) => some (byteAt c k)
      | none => some (byteAt w (k * cw + j))) ∧
    (rsWindow w cw).ncorr = ((List.range cw).map fun j =>
      match rsDecode (interleaved w cw j) with
      | some (_, n) => n
      | none => 0).sum ∧
    (rsWindow w cw).nunc = (List.range cw).countP fun j => (rsDecode (interleaved w cw j)).isNone) ∧
  ∀ (s : State) (e : CmdEntry) (rest : List CmdEntry) (src dst : BufOffset) (cw : BitVec 8),
    s.cmd.queue = e :: rest → Executable (.sfchk src dst cw) →
    ∃ t, exec (.sfchk src dst cw) s = .next t ∧
      let r := rsWindow (s.memRead src.toNat (120 * cw.toNat)) cw.toNat
      CompletedWriting s t e rest
        (if 0 < r.nunc then .uncorrectable
         else if fireCode ((r.bytes.drop 2).take 9) = r.bytes.getD 0 0 ++ r.bytes.getD 1 0 then .ok
         else .crcMismatch)
        ((BitVec.ofNat 32 r.nunc <<< 16) ||| BitVec.ofNat 32 r.ncorr) dst.toNat (120 * cw.toNat) r.bytes

/-- `FIRECRC` returns the fire code of nine bytes, and `CRC16` the CRC of `n` bytes, for `n` from 0 to the
whole of BUF (45_superframe.md R422, R423). -/
def Obligations.CrcCommandsReturnTheirCrcs : Prop :=
  ∀ (s : State) (e : CmdEntry) (rest : List CmdEntry) (src : BufOffset) (n : BitVec 19),
    s.cmd.queue = e :: rest →
    (Executable (.firecrc src) → ∃ t, exec (.firecrc src) s = .next t ∧
      CompletedOnly s t e rest .ok ((fireCode (s.memRead src.toNat 9)).zeroExtend 32)) ∧
    (Executable (.crc16 src n) → ∃ t, exec (.crc16 src n) s = .next t ∧
      CompletedOnly s t e rest .ok ((crc16 (s.memRead src.toNat n.toNat)).zeroExtend 32))

/-- `INJMSC` with room in MSCQ, and `INJSF` with room in SFQ, and no stop, append the fragment or the payload,
tagged with the generation of the selection they were checked with, and return its length (46_control.md R442,
R443; log 10 for the selection held). -/
def Obligations.InjectingCommandsPush : Prop :=
  ∀ (s : State) (e : CmdEntry) (rest : List CmdEntry) (src : BufOffset) (a : Selection),
    s.cmd.queue = e :: rest → s.ctl.stopReq = false →
    (InjectsWith s src softLength a → s.q.mscq.length < Config.mscqDepth →
      ∃ t, exec (.injmsc src) s = .next t ∧
        CompletedAs s t e rest .ok (BitVec.ofNat 32 (softLength a)) ∧ SameBuf s t ∧
        t.q = { s.q with mscq := s.q.mscq ++ [(a.generation, s.memRead src.toNat (softLength a))] }) ∧
    (InjectsWith s src byteLength a → s.q.sfq.length < Config.sfqDepth →
      ∃ t, exec (.injsf src) s = .next t ∧
        CompletedAs s t e rest .ok (BitVec.ofNat 32 (byteLength a)) ∧ SameBuf s t ∧
        t.q = { s.q with sfq := s.q.sfq ++ [(a.generation, s.memRead src.toNat (byteLength a))] })

/-- `DRAIN` completes with `OK` when nothing it counted is left, and with `ABORTED` after a stop while
something is left; while it is at the head of CMDQ no step but one of MSC or SFA changes its counts, and every
step keeps them at most what MSCQ and SFQ hold (46_control.md R441, 20_memory.md R125). -/
def Obligations.DrainCompletesWhenItsEntriesAreDone : Prop :=
  (∀ (s : State) (e : CmdEntry) (rest : List CmdEntry), s.cmd.queue = e :: rest →
    (s.cmd.drainM = 0 ∧ s.cmd.drainS = 0 →
      ∃ t, exec .drain s = .next t ∧ CompletedOnly s t e rest .ok 0) ∧
    (s.cmd.drainM ≠ 0 ∨ s.cmd.drainS ≠ 0 → s.ctl.stopReq = true →
      ∃ t, exec .drain s = .next t ∧ CompletedOnly s t e rest .aborted 0)) ∧
  (∀ s t : State, step s = .next t → DrainAtHead s.cmd.queue →
    s.cmd.queue.length ≤ t.cmd.queue.length → s.nextTurn ≠ .msc → s.nextTurn ≠ .sfa →
    t.cmd.drainM = s.cmd.drainM ∧ t.cmd.drainS = s.cmd.drainS) ∧
  (∀ s t : State, step s = .next t → DrainCounted s → DrainCounted t)

/-! ## Commands: where they fail a check, and where they wait -/

/-- A PARAM field outside its legal values completes with `BAD_DESC` and value 0, touching neither BUF nor a
queue, whatever the operand regions are (30_encoding.md R142, R144, R152). That a misaligned CUR of `DDEMOD` is
such a field, and not the `BAD_ADDR` of 20_memory.md R112 and 30_encoding.md R143, is the model's reading (log
7). -/
def Obligations.MalformedParamCompletesBadDesc : Prop :=
  ∀ (s : State) (e : CmdEntry) (rest : List CmdEntry) (i : Instr),
    s.cmd.queue = e :: rest → i.wellFormed = false →
    ∃ t, exec i s = .next t ∧ CompletedOnly s t e rest .badDesc 0

/-- A legal command with a region that is misaligned or leaves BUF completes with `BAD_ADDR` and value 0,
touching neither BUF nor a queue (20_memory.md R112; 30_encoding.md R152). -/
def Obligations.RegionOutsideBufCompletesBadAddr : Prop :=
  ∀ (s : State) (e : CmdEntry) (rest : List CmdEntry) (i : Instr),
    s.cmd.queue = e :: rest → i.wellFormed = true → (∃ r ∈ regions i, ¬ InBuf r.1 r.2.1 r.2.2) →
    ∃ t, exec i s = .next t ∧ CompletedOnly s t e rest .badAddr 0

/-- An injecting command tried for the first time completes with `NO_SUBCH` when no selection is valid, and
with `BAD_ADDR` when its region leaves BUF; past its checks, after a stop, it completes with `ABORTED`; in none
of these cases does it push (30_encoding.md R152; 46_control.md R442, R443, R450). That the first CMD turn
checks, also with a full queue and before `ABORTED`, is the model's reading (log 10). -/
def Obligations.InjectingCommandsEndWithoutPushing : Prop :=
  ∀ (s : State) (e : CmdEntry) (rest : List CmdEntry) (src : BufOffset), s.cmd.queue = e :: rest →
    (s.cmd.held = none → s.sel.act.valid = false →
      (∃ t, exec (.injmsc src) s = .next t ∧ CompletedOnly s t e rest .noSubch 0) ∧
      (∃ t, exec (.injsf src) s = .next t ∧ CompletedOnly s t e rest .noSubch 0)) ∧
    (s.cmd.held = none → s.sel.act.valid = true →
      (¬ InBuf src.toNat (softLength s.sel.act) 1 →
        ∃ t, exec (.injmsc src) s = .next t ∧ CompletedOnly s t e rest .badAddr 0) ∧
      (¬ InBuf src.toNat (byteLength s.sel.act) 1 →
        ∃ t, exec (.injsf src) s = .next t ∧ CompletedOnly s t e rest .badAddr 0)) ∧
    (s.ctl.stopReq = true → ∀ a : Selection,
      (InjectsWith s src softLength a →
        ∃ t, exec (.injmsc src) s = .next t ∧ CompletedOnly s t e rest .aborted 0) ∧
      (InjectsWith s src byteLength a →
        ∃ t, exec (.injsf src) s = .next t ∧ CompletedOnly s t e rest .aborted 0))

/-- A command that must wait stays at the head of CMDQ with nothing else changed but the selection an
injecting command holds: `INJMSC` and `INJSF` while their queue is full, `DRAIN` while entries it counted
are left (30_encoding.md R150; 46_control.md R441–R443; that the selection is held from the first CMD turn
on is the model's choice, log 10). -/
def Obligations.WaitingCommandsStayAtTheHead : Prop :=
  ∀ (s : State) (e : CmdEntry) (rest : List CmdEntry) (src : BufOffset) (a : Selection),
    s.cmd.queue = e :: rest → s.ctl.stopReq = false →
    (InjectsWith s src softLength a → Config.mscqDepth ≤ s.q.mscq.length →
      exec (.injmsc src) s = .next { s with cmd := { s.cmd with held := some a } }) ∧
    (InjectsWith s src byteLength a → Config.sfqDepth ≤ s.q.sfq.length →
      exec (.injsf src) s = .next { s with cmd := { s.cmd with held := some a } }) ∧
    (s.cmd.drainM ≠ 0 ∨ s.cmd.drainS ≠ 0 → exec .drain s = .next s)

/-- A byte a command reads is what BUF holds or a value noted while the command was queued; a byte no host
write raced with is what BUF holds; and a host write notes the byte it replaces with every queued command, and
with the executing one that it wrote there (20_memory.md R122, R123; the choice between the values is free, log
3). What the write of an earlier command notes is in the statements of the commands that write. -/
def Obligations.RacedByteReadsOldOrNew : Prop :=
  (∀ (s : State) (a n i : Nat) (e : CmdEntry) (rest : List CmdEntry), s.cmd.queue = e :: rest → i < n →
    ((s.memRead a n)[i]? = some (s.bufByte (a + i)) ∨
      ∃ b, (a + i, b) ∈ e.raced ∧ (s.memRead a n)[i]? = some b) ∧
    ((∀ b, (a + i, b) ∉ e.raced) → (s.memRead a n)[i]? = some (s.bufByte (a + i)))) ∧
  (∀ (s : State) (a : HostAddr) (w : Width) (v : Word) (o i : Nat), IsBufAccess a.toNat w o →
    i < widthBytes w →
    (∀ e ∈ (s.hostWrite a w v).cmd.queue, (o + i, s.bufByte (o + i)) ∈ e.raced) ∧
    (∀ e ∈ (s.hostWrite a w v).cmd.queue.head?, o + i ∈ e.overwritten))

/-! ## Host accesses -/

/-- A naturally aligned host write to BUF stores its bytes little-endian, changes no other byte, and changes
nothing else but the races noted with the queued commands (20_memory.md R105, R111, R116, R123). -/
def Obligations.HostBufWriteChangesOnlyItsBytes : Prop :=
  ∀ (s : State) (a : HostAddr) (w : Width) (v : Word) (o : Nat), IsBufAccess a.toNat w o →
    let t := s.hostWrite a w v
    Wrote s t o (widthBytes w) ((List.range (widthBytes w)).map fun i => v.extractLsb' (8 * i) 8) [] ∧
    t = { s with buf := t.buf, cmd := { s.cmd with queue := t.cmd.queue } } ∧
    t.cmd.queue.map (fun e => (e.desc, e.seq)) = s.cmd.queue.map fun e => (e.desc, e.seq)

/-- A naturally aligned host read of BUF returns its bytes little-endian, each as BUF holds it or as the
command at the head of CMDQ leaves it, and as BUF holds it when CMDQ is empty; it has no side effect
(20_memory.md R105, R111, R116, R123; the upper lanes of a narrow read are 0, the model's choice of
log 17). -/
def Obligations.HostBufReadIsLittleEndian : Prop :=
  ∀ (s : State) (a : HostAddr) (w : Width) (o : Nat), IsBufAccess a.toNat w o →
    let t := s.hostRead s.afterCmd a w
    t = { s with hostData := t.hostData } ∧ t.hostData.toNat < 256 ^ widthBytes w ∧
    ∀ i, i < widthBytes w →
      (t.hostData.extractLsb' (8 * i) 8 = s.bufByte (o + i) ∨
        t.hostData.extractLsb' (8 * i) 8 = s.afterCmd.bufByte (o + i)) ∧
      (s.cmd.queue = [] → t.hostData.extractLsb' (8 * i) 8 = s.bufByte (o + i))

/-- A host access to a reserved address, or of a wrong width or alignment, reads 0, ignores a write, and
raises `BUS_ERR` with the address as info (20_memory.md R102, R110, R111; 60_exceptions.md R470). That the info
is the address inside the window, without DABRX_BASE, is the model's choice (log 18). -/
def Obligations.BadHostAccessIsABusError : Prop :=
  ∀ (s : State) (a : HostAddr) (w : Width), IsBusError a.toNat w →
    (let t := s.hostRead s.afterCmd a w
     Recorded s t 24 true (a.zeroExtend 32) ∧ t = { s with ev := t.ev, hostData := 0 }) ∧
    (∀ v, let t := s.hostWrite a w v
      Recorded s t 24 true (a.zeroExtend 32) ∧ t = { s with ev := t.ev })

/-- An IQ push is appended whole, the byte of lane [7:0] first, or dropped whole, counted and reported, bit
31 of the info set after a finish (also where IQF has no room as well, the model's choice of log 23);
`IQ_FREE` and `STATUS.IQ_ODD` read the free bytes and the parity (40_sync_ofdm.md R201). -/
def Obligations.IqPushIsWholeOrDropped : Prop :=
  ∀ (s : State) (v : Word),
    (∀ (bs : List Byte) (t : State),
      (bs = [v.extractLsb' 0 8, v.extractLsb' 8 8, v.extractLsb' 16 8, v.extractLsb' 24 8] ∧
          t = s.hostWrite 0x100 .w32 v) ∨
        (bs = [v.extractLsb' 0 8] ∧ t = s.hostWrite 0x104 .w32 v) →
      (s.ctl.finishReq = false ∧ s.q.iqf.length + bs.length ≤ Config.iqFifoBytes →
        t = { s with q := { s.q with iqf := s.q.iqf ++ bs } }) ∧
      (s.ctl.finishReq = true ∨ Config.iqFifoBytes < s.q.iqf.length + bs.length →
        Recorded s t 22 true
          (BitVec.ofNat 32 (bs.length + if s.ctl.finishReq then 2 ^ 31 else 0)) ∧
        t = { s with ev := t.ev, live :=
          { s.live with iqOverflow := s.live.iqOverflow + BitVec.ofNat 32 bs.length } })) ∧
    s.csrValue .iqFree = BitVec.ofNat 32 (Config.iqFifoBytes - s.q.iqf.length) ∧
    ((s.csrValue .status).getLsbD 14 = true ↔ s.q.iqf.length % 2 = 1)

/-- `CMD_GO` appends the staged descriptor tagged with `CMD_SEQ` and increments `CMD_SEQ` modulo 65536, or,
with four entries queued, drops it, sets QFULL and raises `CMD_QFULL` (10_state.md R41). -/
def Obligations.CmdGoEnqueuesOrDrops : Prop :=
  ∀ (s : State) (v : Word),
    let t := s.hostWrite 0x210 .w32 v
    (s.cmd.queue.length < 4 →
      t = { s with cmd := t.cmd } ∧
      t.cmd = { s.cmd with
        queue := s.cmd.queue ++ [⟨⟨s.cmd.w0, s.cmd.w1, s.cmd.w2, s.cmd.w3⟩, s.cmd.seq, [], []⟩]
        seq := s.cmd.seq + 1, drainM := t.cmd.drainM, drainS := t.cmd.drainS } ∧
      (s.cmd.queue = [] → DrainAtHead t.cmd.queue →
        t.cmd.drainM = s.q.mscq.length ∧ t.cmd.drainS = s.q.sfq.length) ∧
      (s.cmd.queue ≠ [] ∨ ¬ DrainAtHead t.cmd.queue →
        t.cmd.drainM = s.cmd.drainM ∧ t.cmd.drainS = s.cmd.drainS)) ∧
    (4 ≤ s.cmd.queue.length →
      Recorded s t 21 true 0 ∧ t = { s with ev := t.ev, cmd := { s.cmd with qfull := true } })

/-- A write of 1 to bit 0 of `SUBCH_COMMIT` makes valid staged fields the active selection, of the next
generation, or, when a check fails, leaves it, sets REJECTED and reports a failing check; a write of 0 does
nothing (10_state.md R47). -/
def Obligations.CommitSwapsOrRejects : Prop :=
  ∀ (s : State) (v : Word),
    let t := s.hostWrite 0x048 .w32 v
    (v.getLsbD 0 = false → t = s) ∧
    (v.getLsbD 0 = true → (∀ n, ¬ FailsCheck (staged s) n) →
      Recorded s t 7 false 0 ∧
      t = { s with ev := t.ev, sel := { s.sel with act := staged s, rejected := false } }) ∧
    (v.getLsbD 0 = true → (∃ n, FailsCheck (staged s) n) →
      (∃ n, FailsCheck (staged s) n ∧ Recorded s t 8 true (BitVec.ofNat 32 n)) ∧
      t = { s with ev := t.ev, sel := { s.sel with rejected := true } })

/-- A write to `CNT_SNAPSHOT` copies every live counter and increments the snapshot number modulo 65536, and
no step changes a snapshot register but such a write and a reset (10_state.md R53). -/
def Obligations.SnapshotChangesOnlyBySnapshotOrReset : Prop :=
  (∀ (s : State) (v : Word), HostWrites s 0x0FC v →
    ∃ t, step s = .next t ∧ t.snap = s.live ∧ t.snapSeq = s.snapSeq + 1) ∧
  (∀ s t : State, step s = .next t →
    (t.snap = s.snap ∧ t.snapSeq = s.snapSeq) ∨ (∃ v, HostWrites s 0x0FC v) ∨
      (Resets s ∧ t.snap = Counters.reset ∧ t.snapSeq = 0))

/-- Every event has the code and the class of the table; raising it sets its bit and, in class E, the two error
registers, and does nothing else; the interrupt line is IRQ_EN and a pending enabled bit; a write to
`IRQ_STATUS` clears the bits written 1, and a write to `IRQ_ENABLE` leaves them (60_exceptions.md R470, R472,
R473). -/
def Obligations.EventsAndTheInterruptLine : Prop :=
  (∀ c : Event, ∃ x ∈ eventTable, x.1 = c) ∧
  (∀ x ∈ eventTable, ∀ (s : State) (info : Word),
    Recorded s (s.raise x.1 info) x.2.1 x.2.2 info ∧
      s.raise x.1 info = { s with ev := (s.raise x.1 info).ev }) ∧
  (∀ s : State, s.irq = true ↔
    s.ctl.irqEn = true ∧ ∃ c, c < 25 ∧ s.ev.irqStatus.getLsbD c = true ∧ s.ev.irqEnable.getLsbD c = true) ∧
  (∀ (s : State) (v : Word),
    s.hostWrite 0x00C .w32 v =
        { s with ev := { s.ev with irqStatus := s.ev.irqStatus &&& ~~~ (v.setWidth 25) } } ∧
      s.hostWrite 0x010 .w32 v = { s with ev := { s.ev with irqEnable := v.setWidth 25 } })

/-- What a read or a write of a CSR does that no other statement says: a plain read returns the value of its
register and has no side effect; `FIC_POP` and `AU_POP` return and remove the head word, or return 0, a FIC
record leaving its slot with its last word; a write-only register reads a value the spec leaves open (log 6);
a reserved offset reads 0 and ignores writes, with no event; a read-only register ignores writes; the staging
registers keep the bits that are not reserved; and the writes of 1 to `CMD_STATUS` clear DONE and QFULL
(10_state.md R35, R36, R38, R40, R42, R53; 20_memory.md R116; 40_sync_ofdm.md R244, R245; 45_superframe.md
R420). The data of a read is in `hostData` (log 17). -/
def Obligations.CsrReadsAndWrites : Prop :=
  (∀ s : State, ∀ x ∈ csrReads s, s.hostRead s.afterCmd x.1 .w32 = { s with hostData := x.2 }) ∧
  (∀ s : State,
    let t := s.hostRead s.afterCmd 0x110 .w32
    t = { s with hostData := s.q.ficq.flatten.headD 0, q := { s.q with ficq := t.q.ficq } } ∧
    t.q.ficq.flatten = s.q.ficq.flatten.drop 1 ∧
    (∀ w rest, s.q.ficq = [w] :: rest → t.q.ficq = rest) ∧
    (∀ w v ws rest, s.q.ficq = (w :: v :: ws) :: rest → t.q.ficq = (v :: ws) :: rest)) ∧
  (∀ s : State, s.hostRead s.afterCmd 0x120 .w32 =
    { s with hostData := s.q.auq.headD 0, q := { s.q with auq := s.q.auq.drop 1 } }) ∧
  (∀ s : State, ∀ a ∈ ([0x100, 0x104, 0x210] : List HostAddr),
    ∃ v, s.hostRead s.afterCmd a .w32 = { s with hostData := v }) ∧
  (∀ (s : State) (a : HostAddr) (v : Word), a.toNat < 0x1000 → a.toNat % 4 = 0 →
    (a ∉ listedOffsets → s.hostRead s.afterCmd a .w32 = { s with hostData := 0 }) ∧
    (a ∉ writable → s.hostWrite a .w32 v = s)) ∧
  (∀ (s : State) (v : Word),
    s.hostWrite 0x040 .w32 v = { s with sel := { s.sel with stage0 := 0#6 ++ v.extractLsb' 0 26 } } ∧
    s.hostWrite 0x044 .w32 v = { s with sel := { s.sel with
      stage1 := 0#17 ++ v.extractLsb' 12 3 ++ 0#1 ++ v.extractLsb' 0 11 } } ∧
    s.hostWrite 0x0FC .w32 v = { s with snap := s.live, snapSeq := s.snapSeq + 1 } ∧
    s.hostWrite 0x200 .w32 v = { s with cmd := { s.cmd with w0 := v } } ∧
    s.hostWrite 0x204 .w32 v = { s with cmd := { s.cmd with w1 := v } } ∧
    s.hostWrite 0x208 .w32 v = { s with cmd := { s.cmd with w2 := v } } ∧
    s.hostWrite 0x20C .w32 v = { s with cmd := { s.cmd with w3 := v } } ∧
    s.hostWrite 0x214 .w32 v = { s with cmd := { s.cmd with
      done := s.cmd.done && !v.getLsbD 1, qfull := s.cmd.qfull && !v.getLsbD 2 } })

/-- A write to `CTRL` does SOFT_RESET, then RUN and IRQ_EN, then STOP, then FINISH: a soft reset gives every
piece of state its reset value but the contents of BUF; a stop sets STOP_REQ and STOPPED and raises HALTED with
info 1, and does nothing a second time (10_state.md R37, 46_control.md R450, R452, 70_reset_and_hazards.md
R511). A hardware reset gives every piece of state its reset value, the contents of BUF becoming unspecified
anew, and deasserts the interrupt line; no streaming agent steps after it (R510). The data on the bus, the
turns still to come, the step count and the number of hardware resets are the model's own (log 22); the
unspecified contents of BUF, and the values at reset that 10_state.md R70 leaves open, are the model's choice
(logs 2, 5). -/
def Obligations.CtrlWritesAndResets : Prop :=
  (∀ (s : State) (v : Word), s.hostWrite 0x004 .w32 v = controlled s v) ∧
  (∀ (s : State) (v : Word), v.getLsbD 3 = true → SameBuf s (s.hostWrite 0x004 .w32 v)) ∧
  (∀ s : State,
    let t := s.hardwareReset
    t = { State.reset with bufEpoch := s.bufEpoch + 1, turns := s.turns, tick := s.tick } ∧
    (∀ a, t.bufByte a = Config.bufPowerOn (s.bufEpoch + 1) a) ∧ t.irq = false ∧ ¬ MayStream t)

/-- The stop flag is set only by a write of 1 to `CTRL.STOP` and, once set, stays set until a reset; the active
selection changes only by a commit of valid staged fields and by a reset (46_control.md R450, R456;
42_eep_dispersal.md R304). -/
def Obligations.StopAndSelectionChangeOnlyByTheirWrites : Prop :=
  ∀ s t : State, step s = .next t →
    (s.ctl.stopReq = true → t.ctl.stopReq = true ∨ Resets s) ∧
    (s.ctl.stopReq = false → t.ctl.stopReq = true →
      ∃ v : Word, HostWrites s 0x004 v ∧ v.getLsbD 1 = true) ∧
    (t.sel.act = s.sel.act ∨ Resets s ∨
      ∃ v : Word, HostWrites s 0x048 v ∧ v.getLsbD 0 = true ∧ (∀ n, ¬ FailsCheck (staged s) n) ∧
        t.sel.act = staged s)

/-- With RUN = 0, after a stop, or once finished, no streaming agent changes anything
(46_control.md R450, R452, R454). -/
def Obligations.DisabledAgentsChangeNothing : Prop :=
  ∀ s : State, ¬ MayStream s →
    s.acqStep = s ∧ s.syncStep = s ∧ s.nosampleStep = s ∧ s.demodStep = s ∧ s.mscStep = s ∧ s.sfaStep = s

/-- After every step FINISHED is set if a finish was requested, no stop was, IQF holds fewer than two bytes
and the queues to SFA are empty; it stays set until a reset; and the step that sets it raises `HALTED` and
leaves IQF empty. A step is its turn, and then, only where that condition holds of a block that has not
finished, FINISHED, `HALTED` with info 2 and the emptying of IQF, and nothing else (46_control.md R452;
log 15). -/
def Obligations.FinishedFollowsItsCondition : Prop :=
  ∀ s t : State, step s = .next t →
    (t.ctl.finishReq = true → t.ctl.stopReq = false → t.q.iqf.length < 2 → t.q.sampq = [] →
      t.q.symq = [] → t.q.mscq = [] → t.q.sfq = [] → t.ctl.finished = true) ∧
    (s.ctl.finished = true → t.ctl.finished = true ∨ Resets s) ∧
    (s.ctl.finished = false → t.ctl.finished = true →
      t.ev.irqStatus.getLsbD 23 = true ∧ t.q.iqf = []) ∧
    ∃ u, runTurn s.nextTurn s.beginTurn = .next u ∧
      (Finishes u → t = withEvent
        { u with ctl := { u.ctl with finished := true }, q := { u.q with iqf := [] } } 23 false 2) ∧
      (¬ Finishes u → t = u)

/-! ## Invariants -/

/-- The reset state meets the five invariants (10_state.md R70, 46_control.md R441). The list form of BUF (log
2), and the reset values that R70 leaves open, of TI, the CIF number and the held selection (log 5), are the
model's choices. -/
def Obligations.ResetMeetsTheInvariants : Prop :=
  State.reset.MemoryCanonical ∧ State.reset.QueuesBounded ∧ State.reset.SelectionsSound ∧
    CountsInRange State.reset ∧ DrainCounted State.reset

/-- Every step keeps the canonical form of BUF, a list of the bytes written with strictly rising offsets, which
is the model's choice (log 2); that no offset lies outside BUF is 20_memory.md R100. -/
def Obligations.StepKeepsMemoryCanonical : Prop :=
  ∀ s t : State, s.MemoryCanonical → step s = .next t → t.MemoryCanonical

/-- Every step keeps every queue within its capacity (10_state.md R60, R61). -/
def Obligations.StepKeepsQueuesBounded : Prop :=
  ∀ s t : State, s.QueuesBounded → step s = .next t → t.QueuesBounded

/-- Every step keeps every valid selection sound: a row of the EEP table, inside a CIF (10_state.md R48). -/
def Obligations.StepKeepsSelectionsSound : Prop :=
  ∀ s t : State, s.SelectionsSound → step s = .next t → t.SelectionsSound

/-- Every step keeps the counts of the streaming agents in the ranges 10_state.md R50 and R51 give them. -/
def Obligations.StepKeepsCountsInRange : Prop :=
  ∀ s t : State, CountsInRange s → step s = .next t → CountsInRange t

/-! ## Streaming agents -/

/-- The modes after reset: SYNC in IDLE, in FILL after its first step with RUN = 1; SFA accumulating; no
selection, so that DEMOD pushes no fragment and the injecting commands return `NO_SUBCH`; the interrupt line
masked; level and correctors 0 (70_reset_and_hazards.md R513). That no selection is held at reset, and that one
held would be used, are the model's choice and reading (logs 5, 10). -/
def Obligations.ModesAfterReset : Prop :=
  State.reset.sync.phase = .idle ∧
  ({ State.reset with ctl := { State.reset.ctl with run := true } } : State).syncStep.sync.phase = .fill ∧
  State.reset.sfa.phase = .accumulating ∧ State.reset.sel.act.valid = false ∧
  (∀ s : State, s.sel.act.valid = false → s.demodStep.q.mscq = s.q.mscq) ∧
  (∀ (s : State) (src : BufOffset), s.sel.act.valid = false → s.cmd.held = none → s.cmd.queue ≠ [] →
    (∃ t, exec (.injmsc src) s = .next t ∧ t.cmd.lastResult = .noSubch) ∧
    (∃ t, exec (.injsf src) s = .next t ∧ t.cmd.lastResult = .noSubch)) ∧
  State.reset.cmd.held = none ∧
  State.reset.ctl.irqEn = false ∧ State.reset.ev.irqEnable = 0 ∧
  State.reset.sync.lvl = .dyadic 0 0 ∧ State.reset.sync.coarse = 0 ∧ State.reset.sync.fine = .dyadic 0 0 ∧
  State.reset.meas.signalLevel = 0 ∧ State.reset.meas.coarseCorr = 0 ∧ State.reset.meas.fineCorr = 0

/-- An enabled ACQ step takes the two oldest bytes of IQF as I and Q and appends
`(I − 128)/128 + j·(Q − 128)/128` to SAMPQ; with fewer than two bytes, a full SAMPQ, or not enabled, it does
nothing (40_sync_ofdm.md R202, R200). -/
def Obligations.AcqConvertsOneBytePair : Prop :=
  ∀ s : State,
    (∀ (i q : Byte) (rest : List Byte), MayStream s → s.q.iqf = i :: q :: rest →
      s.q.sampq.length < Config.sampqDepth →
      s.acqStep = { s with q := { s.q with
        iqf := rest
        sampq := s.q.sampq ++ [⟨.dyadic ((i.toNat : Int) - 128) 7, .dyadic ((q.toNat : Int) - 128) 7⟩] } }) ∧
    (¬ MayStream s ∨ s.q.iqf.length < 2 ∨ Config.sampqDepth ≤ s.q.sampq.length → s.acqStep = s)

/-- IDLE becomes FILL; FILL, NULL_SEARCH, NULL_EXIT and CAPTURE consume one sample through `take()`, or hold
while SAMPQ is empty; a null search and a null exit first decide, at half and at three quarters of the signal
level; when the decision does not fall and a frame's worth of samples has been consumed, the phase times out:
it is counted and reported with its phase code, no sample is consumed, and detection restarts with level,
oscillator phase and corrections kept (40_sync_ofdm.md R203, R205–R207, R210–R212). -/
def Obligations.SyncDetectsTheNullSymbol : Prop :=
  ∀ s : State, MayStream s →
    (s.sync.phase = .idle → s.syncStep =
      { s with sync := { s.sync with phase := .fill, fill := 0, envSum := num 0, envPtr := 0 } }) ∧
    (s.sync.phase = .fill → s.syncStep = consumes s fun k _ e =>
      let filled : SyncState :=
        { k with env := k.env.set k.fill e, envSum := Config.dsp.add k.envSum e, fill := k.fill + 1 }
      if filled.fill = 50 then { filled with phase := .nullSearch, c := 0, envPtr := 0 } else filled) ∧
    (s.sync.phase = .nullSearch → s.syncStep =
      if Config.dsp.le (windowAverage s.sync) (Config.dsp.mul (.dyadic 1 1) s.sync.lvl) then
        { s with sync := { s.sync with phase := .nullExit, c := 0 } }
      else if s.sync.c = 196608 then timedOut s
      else consumes s fun k _ e => slid k e) ∧
    (s.sync.phase = .nullExit → s.syncStep =
      if Config.dsp.lt (Config.dsp.mul (.dyadic 3 2) s.sync.lvl) (windowAverage s.sync) then
        { s with sync := { s.sync with phase := .capture, W := [] } }
      else if s.sync.c = 196608 then timedOut s
      else consumes s fun k _ e => slid k e) ∧
    (s.sync.phase = .capture → s.sync.W.length < 2048 → s.syncStep =
      consumes s fun k y _ => { k with W := k.W ++ [y] })

/-- A full capture window is searched: a failure is counted, reported and restarts detection; an index starts
the symbols, and at index 0 ends symbol 1 at once, unless SYMQ is full. SYMBOLS consumes the samples of a
guard and of a useful part in turn; the last sample of a useful part ends its symbol, and is not taken while
SYMQ is full: the symbol is pushed, symbol 1 gives the coarse estimate, every later one adds its guard
correlation, and the last one ends the frame, which corrects the oscillator (40_sync_ofdm.md R210, R219–R222,
R225–R227). -/
def Obligations.SyncEmitsSymbolsAndCorrects : Prop :=
  ∀ s : State, MayStream s →
    (s.sync.phase = .capture → s.sync.W.length = 2048 → s.syncStep =
      match findIndex Config.dsp ⟨Config.binSize, Config.topK, Config.nearDist⟩ s.sync.W with
      | none => restarted (withEvent
          { s with
            meas := { s.meas with lastIndex := s.meas.lastIndex &&& 0x7FFFFFFF }
            live := { s.live with peakFail := s.live.peakFail + 1 } } 2 true 0)
      | some d =>
        let t : State := { s with
          meas := { s.meas with lastIndex := 0x80000000 ||| BitVec.ofNat 32 d }
          sync := { s.sync with
            d := d, S := s.sync.W.drop d, l := 1, part := .useful, P := ⟨num 0, num 0⟩, coarsePend := 0
            phase := .symbols } }
        if d = 0 then (if s.q.symq.length < Config.symqDepth then symbolEnded t else s) else t) ∧
    (s.sync.phase = .symbols → s.sync.part = .guard → s.syncStep = consumes s fun k y _ =>
      if k.G.length + 1 = 504 then { k with G := k.G ++ [y], part := .useful, S := [] }
      else { k with G := k.G ++ [y] }) ∧
    (s.sync.phase = .symbols → s.sync.part = .useful →
      (s.sync.S.length + 1 ≠ 2048 → s.syncStep = consumes s fun k y _ => { k with S := k.S ++ [y] }) ∧
      (s.sync.S.length + 1 = 2048 →
        (Config.symqDepth ≤ s.q.symq.length ∨ s.q.sampq = [] → s.syncStep = s) ∧
        (s.q.symq.length < Config.symqDepth → s.q.sampq ≠ [] →
          s.syncStep = symbolEnded (consumes s fun k y _ => { k with S := k.S ++ [y] }))))

/-- Where it is enabled the no-samples step is counted and reported, disarms itself and restarts detection, a
frame in progress being abandoned with its ABORT marker; elsewhere it does nothing, so a second one in a row
does nothing; and only a SYNC step that consumes a sample, or a reset, arms it again (40_sync_ofdm.md R203,
R211, R229). That it waits for room in SYMQ in SYMBOLS is the model's reading (log 21). -/
def Obligations.NosampleFiresOncePerSample : Prop :=
  (∀ s : State,
    let enabled := MayStream s ∧ s.sync.phase ≠ .idle ∧ s.q.sampq = [] ∧ s.q.iqf.length < 2 ∧
      s.sync.nsArmed = true ∧ s.ctl.finishReq = false ∧
      ¬ (s.sync.phase = .symbols ∧ Config.symqDepth ≤ s.q.symq.length)
    (enabled → s.nosampleStep = restarted (withEvent
      { s with
        live := { s.live with nosample := s.live.nosample + 1 }
        sync := { s.sync with nsArmed := false } } 3 true ((phaseCode s.sync.phase).setWidth 32))) ∧
    (¬ enabled → s.nosampleStep = s) ∧
    s.nosampleStep.nosampleStep = s.nosampleStep) ∧
  (∀ s t : State, step s = .next t → s.sync.nsArmed = false → t.sync.nsArmed = true →
    Resets s ∨ (s.nextTurn = .sync ∧ ∃ x, s.q.sampq = x :: t.q.sampq))

/-- A DEMOD step takes one entry of SYMQ. An ABORT marker ends the frame; symbol 1 is its reference; a symbol
of another frame, or without a reference, is discarded; symbols 2 to 4 give the FIC soft bits, and symbol 4
appends the FIC record to FICQ or drops it, counted and reported; a later symbol gives CIF soft bits, and the
18th of a CIF pushes the slice of the active selection, tagged with its generation, to MSCQ, holding while MSCQ
is full, or pushes nothing when no selection is valid (40_sync_ofdm.md R230, R231, R238, R242–R244). When the
CIF number counts is the model's reading (log 19). -/
def Obligations.DemodStepTakesOneEntry : Prop :=
  ∀ s : State, MayStream s →
    (s.q.symq = [] → s.demodStep = s) ∧
    ∀ (e : SymEntry) (rest : List SymEntry), s.q.symq = e :: rest →
      let p : State := { s with q := { s.q with symq := rest } }
      (∀ f, e = .abort f → s.demodStep =
        { p with demod := { s.demod with zvalid := false, fic := [], cif := [], cifNum := 0 } }) ∧
      ∀ (f : Word) (l : Nat) (x : List (Cx Sys2Proof.Num)), e = .symbol f l x →
        let Z := fft Config.dsp x
        let b := softBits Config.dsp Config.softScale s.demod.zprev Z
        (l = 1 → s.demodStep = { p with demod :=
          { zprev := Z, zvalid := true, dfseq := f, fic := [], cif := [], cifNum := 0 } }) ∧
        (l ≠ 1 → s.demod.zvalid = false ∨ f ≠ s.demod.dfseq → s.demodStep = p) ∧
        (s.demod.zvalid = true → f = s.demod.dfseq →
          (l = 2 ∨ l = 3 → s.demodStep = { p with demod :=
            { s.demod with zprev := Z, fic := s.demod.fic.take (l - 2) ++ [b] } }) ∧
          (l = 4 →
            let fic := s.demod.fic.take 2 ++ [b]
            let soft := (List.range 9216).map fun j => fic.flatten.getD j 0
            let t : State := { p with demod := { s.demod with zprev := Z, fic := fic } }
            s.demodStep = if s.q.ficq.length < Config.ficqDepth then
                withEvent { t with
                  q := { t.q with ficq := s.q.ficq ++
                    [(0xF1#8 ++ f.extractLsb' 0 24) :: packedWords soft] }
                  live := { s.live with ficBlocks := s.live.ficBlocks + 1 } } 4 false f
              else withEvent { t with live := { s.live with ficDrop := s.live.ficDrop + 1 } } 5 true f) ∧
          (5 ≤ l → s.demod.cif.length + 1 ≠ 18 → s.demodStep =
            { p with demod := { s.demod with zprev := Z, cif := s.demod.cif ++ [b] } }) ∧
          (5 ≤ l → s.demod.cif.length + 1 = 18 →
            let t : State := { p with demod :=
              { s.demod with zprev := Z, cif := [], cifNum := (s.demod.cifNum + 1) % 4 } }
            let a := s.sel.act
            let slice := (List.range (64 * a.sizeCu.toNat)).map fun i =>
              (s.demod.cif ++ [b]).flatten.getD (64 * a.startCu.toNat + i) 0
            (a.valid = false → s.demodStep = t) ∧
            (a.valid = true → s.q.mscq.length < Config.mscqDepth → s.demodStep =
              { t with q := { t.q with mscq := s.q.mscq ++ [(a.generation, slice)] } }) ∧
            (a.valid = true → Config.mscqDepth ≤ s.q.mscq.length → s.demodStep = s)))

/-- An MSC step takes one entry of MSCQ while SFQ has room for the push it may make, and holds, whatever the
entry, while SFQ is full. One of another generation, or with no valid selection, is discarded,
counted and reported. One of the present generation is counted and written to the de-interleaver, which its
first one restarts; the first 15 of a generation push nothing; every later one pushes to SFQ, with its
generation, the packed bits that de-interleaving, de-puncturing, decoding and descrambling give. Each pop
lowers the MSCQ count of a waiting DRAIN, and, where that was not 0, a push raises its SFQ count
(44_deinterleave_msc.md R370–R377; 46_control.md R441, R456; 10_state.md R61). -/
def Obligations.MscStepTakesOneFragment : Prop :=
  ∀ s : State, MayStream s →
    (s.q.mscq = [] ∨ Config.sfqDepth ≤ s.q.sfq.length → s.mscStep = s) ∧
    ∀ (gen : BitVec 16) (frag : List SoftBit) (rest : List (BitVec 16 × List SoftBit)),
      s.q.mscq = (gen, frag) :: rest → s.q.sfq.length < Config.sfqDepth →
      let a := s.sel.act
      let p : State := { s with
        q := { s.q with mscq := rest }, cmd := { s.cmd with drainM := s.cmd.drainM - 1 } }
      (a.valid = false ∨ gen ≠ a.generation → s.mscStep =
        withEvent { p with live := { s.live with cifStale := s.live.cifStale + 1 } } 6 false
          (gen.setWidth 32)) ∧
      (a.valid = true → gen = a.generation →
        let m : MscState :=
          if gen = s.msc.mscGen then s.msc else { s.msc with tiW := 0, tiFill := 0, mscGen := gen }
        let ti := m.ti.set m.tiW frag
        let c : State := { p with live := { s.live with cifIn := s.live.cifIn + 1 } }
        (m.tiFill < 15 → s.mscStep =
          { c with msc := { m with ti := ti, tiW := (m.tiW + 1) % 16, tiFill := m.tiFill + 1 } }) ∧
        (15 ≤ m.tiFill →
          let y := (List.range (64 * a.sizeCu.toNat)).map fun i =>
            (ti.getD ((m.tiW + 1 + [0, 8, 4, 12, 2, 10, 6, 14, 1, 9, 5, 13, 3, 11, 7, 15].getD (i % 16) 0)
              % 16) []).getD i 0
          let soft := depuncture y a.profile (a.levelM1.toNat + 1) a.bitrate.toNat
          s.mscStep = { c with
            msc := { m with ti := ti, tiW := (m.tiW + 1) % 16 }
            q := { c.q with sfq :=
              s.q.sfq ++ [(gen, packBits (dedisperse (viterbi soft (24 * a.bitrate.toNat))))] }
            cmd := { c.cmd with
              drainS := if 0 < s.cmd.drainM then s.cmd.drainS + 1 else s.cmd.drainS } }))

/-- From the first fragment of a generation on, the de-interleaver answers nothing to fragments 0 … 14, and
to fragment `k ≥ 15` the `n` soft bits of which bit `i` is bit `i` of fragment `k − 15 + Π[i mod 16]`
(44_deinterleave_msc.md R371, R372). -/
def Obligations.DeinterleaverDelaysByThePermutation : Prop :=
  ∀ (m : MscState) (frags : List (List SoftBit)) (n k : Nat),
    m.tiFill = 0 → m.tiW = 0 → m.ti.length = 16 → k < frags.length →
    (k < 15 → (feed n m frags)[k]? = some none) ∧
    (15 ≤ k → ∃ y, (feed n m frags)[k]? = some (some y) ∧ y.length = n ∧
      ∀ i, i < n → y[i]? = some ((frags.getD
        (k - 15 + [0, 8, 4, 12, 2, 10, 6, 14, 1, 9, 5, 13, 3, 11, 7, 15].getD (i % 16) 0) []).getD i 0))

/-- An SFA step takes one entry of SFQ, lowering the SFQ count of a waiting DRAIN. One of another generation, or
with no valid selection, is discarded, counted and reported; the first one of a generation restarts the
assembler; the fifth payload in the store makes a window, whose correction is counted and reported. A window
whose fire code fails, or, while accumulating, one with an uncorrectable codeword, is rejected: SFA accumulates
with the four youngest payloads, and a loss of synchronization is reported. Otherwise SFA is synchronized with
an empty store; a window with an uncorrectable codeword emits nothing; one without is counted, and gives a
FORMAT record where the header is not cached, and its audio units (45_superframe.md R401–R406, R410–R412, R414;
46_control.md R441). -/
def Obligations.SfaStepTakesOnePayload : Prop :=
  ∀ s : State, MayStream s →
    (s.q.sfq = [] → s.sfaStep = s) ∧
    ∀ (gen : BitVec 16) (bytes : List Byte) (rest : List (BitVec 16 × List Byte)),
      s.q.sfq = (gen, bytes) :: rest →
      let a := s.sel.act
      let p : State := { s with
        q := { s.q with sfq := rest }, cmd := { s.cmd with drainS := s.cmd.drainS - 1 } }
      (a.valid = false ∨ gen ≠ a.generation → s.sfaStep =
        withEvent { p with live := { s.live with cifStale := s.live.cifStale + 1 } } 6 false
          (gen.setWidth 32)) ∧
      (a.valid = true → gen = a.generation →
        let f : SfaState := if gen = s.sfa.sfaGen then s.sfa else
          { s.sfa with phase := .accumulating, store := [], fmtValid := false, sfaGen := gen }
        let stored : State := { p with sfa := { f with store := f.store ++ [bytes] } }
        (f.store.length ≠ 4 → s.sfaStep = stored) ∧
        (f.store.length = 4 →
          let cw := a.bitrate.toNat / 8
          let r := rsWindow (f.store ++ [bytes]).flatten cw
          let t := windowCounted stored r.ncorr r.nunc
          let fire := fireCode ((r.bytes.drop 2).take 9) == byteAt r.bytes 0 ++ byteAt r.bytes 1
          (fire = false ∨ (0 < r.nunc ∧ f.phase = .accumulating) → s.sfaStep = failed t fire) ∧
          (fire = true → 0 < r.nunc → f.phase = .synced → s.sfaStep =
            { t with sfa := { f with store := [] } }) ∧
          (fire = true → r.nunc = 0 → s.sfaStep = passed t r.bytes cw)))

/-- A malformed audio unit, and one whose CRC does not match, is dropped, counted and reported with its index;
any other is counted, and its record is appended to the AU record stream and reported with its first word, or,
where AUQ has no room, dropped whole, counted and reported (45_superframe.md R415, R416, R418). -/
def Obligations.AudioUnitsAreEmittedOrDropped : Prop :=
  ∀ (s : State) (w : List Byte) (cw h i start stop : Nat),
    let t := s.processAu w cw h i start stop
    let malformed := start < h ∨ 110 * cw < stop ∨ stop < start + 3
    let P := (w.drop start).take (stop - start - 2)
    let stored := byteAt w (stop - 2) ++ byteAt w (stop - 1)
    let index := BitVec.ofNat 32 i
    (malformed → t =
      withEvent { s with live := { s.live with auMalformed := s.live.auMalformed + 1 } } 16 true index) ∧
    (¬ malformed → crc16 P ≠ stored → t =
      withEvent { s with live := { s.live with auCrcFail := s.live.auCrcFail + 1 } } 15 true index) ∧
    (¬ malformed → crc16 P = stored →
      let record := (0xA0#8 ++ BitVec.ofNat 4 i ++ BitVec.ofNat 20 P.length) :: packedWords P
      let u : State := { s with live := { s.live with auOk := s.live.auOk + 1 } }
      (4 * s.q.auq.length + 4 * record.length ≤ Config.auqBytes → t =
        withEvent { u with q := { s.q with auq := s.q.auq ++ record } } 14 false (record.headD 0)) ∧
      (Config.auqBytes < 4 * s.q.auq.length + 4 * record.length → t =
        withEvent { u with live := { u.live with auDrop := s.live.auDrop + 1 } } 17 true index))

/-! ## Units -/

/-- The Viterbi decoder finds a best payload: no payload of N bits has a codeword of lower cost against the
soft bits (41_viterbi.md R274–R278). -/
def Obligations.ViterbiFindsABestPayload : Prop :=
  ∀ (soft : List SoftBit) (n : Nat) (p : List Bool), soft.length = 4 * (n + 6) → p.length = n →
    codewordCost (convEncode (viterbi soft n)) soft ≤ codewordCost (convEncode p) soft

/-- Decoding the clean soft bits of a payload's codeword gives that payload (41_viterbi.md R279). -/
def Obligations.ViterbiDecodesCleanCodewords : Prop :=
  ∀ p : List Bool, viterbi (cleanSoft (convEncode p)) p.length = p

/-- No output of the Viterbi decoder depends on the renormalisation threshold (41_viterbi.md R276). -/
def Obligations.RenormalisationHasNoEffect : Prop :=
  ∀ (limit : Option Nat) (soft : List SoftBit) (n : Nat), viterbiWith limit soft n = viterbi soft n

/-- In every row of the EEP table the mask covers the mother codeword and transmits 64 bits for each capacity
unit of the sub-channel (42_eep_dispersal.md R302, R303). -/
def Obligations.EepMaskFitsItsRow : Prop :=
  ∀ (p : Profile) (l : BitVec 2) (b : Nat), bitrateLegal p b = true →
    (punctureMask (eepRow p (l.toNat + 1) b)).length = 4 * (24 * b + 6) ∧
    (punctureMask (eepRow p (l.toNat + 1) b)).count true = 64 * (eepRow p (l.toNat + 1) b).size

/-- Descrambling twice restores the bits (42_eep_dispersal.md R311, R313). -/
def Obligations.DescramblingTwiceRestores : Prop := ∀ b : List Bool, dedisperse (dedisperse b) = b

/-- A codeword decodes to itself with no correction; and whatever the input, a returned count is never a
false claim: the block returned is a codeword at that distance, at most 5, from the input
(43_reed_solomon.md R345). -/
def Obligations.ReedSolomonNeverClaimsFalsely : Prop :=
  (∀ r : List Byte, isCodeword r = true → rsDecode r = some (r, 0)) ∧
  (∀ (r c : List Byte) (n : Nat), rsDecode r = some (c, n) →
    c.length = r.length ∧ isCodeword c = true ∧ n ≤ 5 ∧ hammingDistance r c = n)

/-- A block of 120 bytes within distance 5 of a codeword decodes to that codeword, with the number of bytes
corrected (43_reed_solomon.md R343, R345). -/
def Obligations.ReedSolomonCorrectsFiveErrors : Prop :=
  ∀ r c : List Byte, r.length = 120 → c.length = 120 → isCodeword c = true → hammingDistance r c ≤ 5 →
    rsDecode r = some (c, hammingDistance r c)

/-- In exact arithmetic the two transforms are the sums the spec gives, and each undoes the other
(00_scope.md R19). -/
def Obligations.ExactTransformsAreTheSpecs : Prop :=
  ∀ (special : Word → ℝ) (x : List (Cx ℝ)),
    let A := exactArith special
    (∀ k, k < x.length → ∃ z, (fft A x)[k]? = some z ∧
      toComplex z = ∑ n : Fin x.length,
        toComplex x[n] * Complex.exp (-(2 * Real.pi * Complex.I * n * k / x.length))) ∧
    (∀ n, n < x.length → ∃ z, (ifft A x)[n]? = some z ∧
      toComplex z = (∑ k : Fin x.length,
        toComplex x[k] * Complex.exp (2 * Real.pi * Complex.I * k * n / x.length)) / x.length) ∧
    ifft A (fft A x) = x ∧ fft A (ifft A x) = x
end

