-- ==== Sys2Proof/Laws/Config.lean ====
section
/-! SUPPORT. The OPEN parameters lie within the bounds of 00_scope.md R13, whatever their values. -/

namespace Sys2Proof.Config

/-- `LEVEL_ALPHA` is in (0, 1). -/
theorem levelAlpha_bounds : ∃ p q, levelAlpha = .ratio p q ∧ 0 < p ∧ p < q :=
  ⟨_, _, rfl, by omega, by omega⟩

/-- `FINE_GAIN` is in (0, 1]. -/
theorem fineGain_bounds : ∃ p q, fineGain = .ratio p q ∧ 0 < p ∧ p ≤ q := ⟨_, _, rfl, by omega, by omega⟩

/-- `SOFT_SCALE` is positive. -/
theorem softScale_bounds : ∃ p q, softScale = .ratio p q ∧ 0 < p ∧ 0 < q := ⟨_, _, rfl, by omega, by omega⟩

/-- `BIN_SIZE` divides the symbol length. -/
theorem binSize_dvd : binSize ∣ Tu := pow_dvd_pow 2 (Nat.le_of_lt_succ binSizeLog.isLt)

/-- `TOPK` and the capacities are at least their bounds. -/
theorem capacity_bounds : 1 ≤ topK ∧ 2 ≤ iqFifoBytes ∧ 1 ≤ sampqDepth ∧ 1 ≤ symqDepth ∧ 1 ≤ ficqDepth ∧
    1 ≤ mscqDepth ∧ 1 ≤ sfqDepth ∧ 8 ≤ auqBytes := by
  simp only [topK, iqFifoBytes, sampqDepth, symqDepth, ficqDepth, mscqDepth, sfqDepth, auqBytes]
  omega

end Sys2Proof.Config
end

