-- ==== Sys2Proof/Laws/State.lean ====
section
/-! SUPPORT. What each named update of the state leaves as it was: one lemma per field and update, each true
by `rfl`, so that no proof unfolds a record update; and the fields the updates write. -/

namespace Sys2Proof.Machine

/-! ## `State.raise` -/

@[simp] theorem State.raise_ctl (s : State) (c : Event) (info : Word) :
    (s.raise c info).ctl = s.ctl := rfl
@[simp] theorem State.raise_meas (s : State) (c : Event) (info : Word) :
    (s.raise c info).meas = s.meas := rfl
@[simp] theorem State.raise_sel (s : State) (c : Event) (info : Word) :
    (s.raise c info).sel = s.sel := rfl
@[simp] theorem State.raise_live (s : State) (c : Event) (info : Word) :
    (s.raise c info).live = s.live := rfl
@[simp] theorem State.raise_snap (s : State) (c : Event) (info : Word) :
    (s.raise c info).snap = s.snap := rfl
@[simp] theorem State.raise_snapSeq (s : State) (c : Event) (info : Word) :
    (s.raise c info).snapSeq = s.snapSeq := rfl
@[simp] theorem State.raise_sync (s : State) (c : Event) (info : Word) :
    (s.raise c info).sync = s.sync := rfl
@[simp] theorem State.raise_demod (s : State) (c : Event) (info : Word) :
    (s.raise c info).demod = s.demod := rfl
@[simp] theorem State.raise_msc (s : State) (c : Event) (info : Word) :
    (s.raise c info).msc = s.msc := rfl
@[simp] theorem State.raise_sfa (s : State) (c : Event) (info : Word) :
    (s.raise c info).sfa = s.sfa := rfl
@[simp] theorem State.raise_q (s : State) (c : Event) (info : Word) : (s.raise c info).q = s.q := rfl
@[simp] theorem State.raise_cmd (s : State) (c : Event) (info : Word) :
    (s.raise c info).cmd = s.cmd := rfl
@[simp] theorem State.raise_buf (s : State) (c : Event) (info : Word) :
    (s.raise c info).buf = s.buf := rfl
@[simp] theorem State.raise_bufEpoch (s : State) (c : Event) (info : Word) :
    (s.raise c info).bufEpoch = s.bufEpoch := rfl
@[simp] theorem State.raise_hostData (s : State) (c : Event) (info : Word) :
    (s.raise c info).hostData = s.hostData := rfl
@[simp] theorem State.raise_turns (s : State) (c : Event) (info : Word) :
    (s.raise c info).turns = s.turns := rfl
@[simp] theorem State.raise_tick (s : State) (c : Event) (info : Word) :
    (s.raise c info).tick = s.tick := rfl

/-! ## `State.count` -/

@[simp] theorem State.count_ctl (s : State) (i : Counter) (n : Word) : (s.count i n).ctl = s.ctl := rfl
@[simp] theorem State.count_ev (s : State) (i : Counter) (n : Word) : (s.count i n).ev = s.ev := rfl
@[simp] theorem State.count_meas (s : State) (i : Counter) (n : Word) :
    (s.count i n).meas = s.meas := rfl
@[simp] theorem State.count_sel (s : State) (i : Counter) (n : Word) : (s.count i n).sel = s.sel := rfl
@[simp] theorem State.count_snap (s : State) (i : Counter) (n : Word) :
    (s.count i n).snap = s.snap := rfl
@[simp] theorem State.count_snapSeq (s : State) (i : Counter) (n : Word) :
    (s.count i n).snapSeq = s.snapSeq := rfl
@[simp] theorem State.count_sync (s : State) (i : Counter) (n : Word) :
    (s.count i n).sync = s.sync := rfl
@[simp] theorem State.count_demod (s : State) (i : Counter) (n : Word) :
    (s.count i n).demod = s.demod := rfl
@[simp] theorem State.count_msc (s : State) (i : Counter) (n : Word) : (s.count i n).msc = s.msc := rfl
@[simp] theorem State.count_sfa (s : State) (i : Counter) (n : Word) : (s.count i n).sfa = s.sfa := rfl
@[simp] theorem State.count_q (s : State) (i : Counter) (n : Word) : (s.count i n).q = s.q := rfl
@[simp] theorem State.count_cmd (s : State) (i : Counter) (n : Word) : (s.count i n).cmd = s.cmd := rfl
@[simp] theorem State.count_buf (s : State) (i : Counter) (n : Word) : (s.count i n).buf = s.buf := rfl
@[simp] theorem State.count_bufEpoch (s : State) (i : Counter) (n : Word) :
    (s.count i n).bufEpoch = s.bufEpoch := rfl
@[simp] theorem State.count_hostData (s : State) (i : Counter) (n : Word) :
    (s.count i n).hostData = s.hostData := rfl
@[simp] theorem State.count_turns (s : State) (i : Counter) (n : Word) :
    (s.count i n).turns = s.turns := rfl
@[simp] theorem State.count_tick (s : State) (i : Counter) (n : Word) :
    (s.count i n).tick = s.tick := rfl

/-! ## `State.memWrite` -/

@[simp] theorem State.memWrite_ctl (s : State) (a : Nat) (bs : List Byte) :
    (s.memWrite a bs).ctl = s.ctl := rfl
@[simp] theorem State.memWrite_ev (s : State) (a : Nat) (bs : List Byte) :
    (s.memWrite a bs).ev = s.ev := rfl
@[simp] theorem State.memWrite_meas (s : State) (a : Nat) (bs : List Byte) :
    (s.memWrite a bs).meas = s.meas := rfl
@[simp] theorem State.memWrite_sel (s : State) (a : Nat) (bs : List Byte) :
    (s.memWrite a bs).sel = s.sel := rfl
@[simp] theorem State.memWrite_live (s : State) (a : Nat) (bs : List Byte) :
    (s.memWrite a bs).live = s.live := rfl
@[simp] theorem State.memWrite_snap (s : State) (a : Nat) (bs : List Byte) :
    (s.memWrite a bs).snap = s.snap := rfl
@[simp] theorem State.memWrite_snapSeq (s : State) (a : Nat) (bs : List Byte) :
    (s.memWrite a bs).snapSeq = s.snapSeq := rfl
@[simp] theorem State.memWrite_sync (s : State) (a : Nat) (bs : List Byte) :
    (s.memWrite a bs).sync = s.sync := rfl
@[simp] theorem State.memWrite_demod (s : State) (a : Nat) (bs : List Byte) :
    (s.memWrite a bs).demod = s.demod := rfl
@[simp] theorem State.memWrite_msc (s : State) (a : Nat) (bs : List Byte) :
    (s.memWrite a bs).msc = s.msc := rfl
@[simp] theorem State.memWrite_sfa (s : State) (a : Nat) (bs : List Byte) :
    (s.memWrite a bs).sfa = s.sfa := rfl
@[simp] theorem State.memWrite_q (s : State) (a : Nat) (bs : List Byte) :
    (s.memWrite a bs).q = s.q := rfl
@[simp] theorem State.memWrite_cmd (s : State) (a : Nat) (bs : List Byte) :
    (s.memWrite a bs).cmd = s.cmd := rfl
@[simp] theorem State.memWrite_bufEpoch (s : State) (a : Nat) (bs : List Byte) :
    (s.memWrite a bs).bufEpoch = s.bufEpoch := rfl
@[simp] theorem State.memWrite_hostData (s : State) (a : Nat) (bs : List Byte) :
    (s.memWrite a bs).hostData = s.hostData := rfl
@[simp] theorem State.memWrite_turns (s : State) (a : Nat) (bs : List Byte) :
    (s.memWrite a bs).turns = s.turns := rfl
@[simp] theorem State.memWrite_tick (s : State) (a : Nat) (bs : List Byte) :
    (s.memWrite a bs).tick = s.tick := rfl

/-! ## `State.cmdWrite` -/

@[simp] theorem State.cmdWrite_ctl (s : State) (a : Nat) (bs : List Byte) :
    (s.cmdWrite a bs).ctl = s.ctl := rfl
@[simp] theorem State.cmdWrite_ev (s : State) (a : Nat) (bs : List Byte) :
    (s.cmdWrite a bs).ev = s.ev := rfl
@[simp] theorem State.cmdWrite_meas (s : State) (a : Nat) (bs : List Byte) :
    (s.cmdWrite a bs).meas = s.meas := rfl
@[simp] theorem State.cmdWrite_sel (s : State) (a : Nat) (bs : List Byte) :
    (s.cmdWrite a bs).sel = s.sel := rfl
@[simp] theorem State.cmdWrite_live (s : State) (a : Nat) (bs : List Byte) :
    (s.cmdWrite a bs).live = s.live := rfl
@[simp] theorem State.cmdWrite_snap (s : State) (a : Nat) (bs : List Byte) :
    (s.cmdWrite a bs).snap = s.snap := rfl
@[simp] theorem State.cmdWrite_snapSeq (s : State) (a : Nat) (bs : List Byte) :
    (s.cmdWrite a bs).snapSeq = s.snapSeq := rfl
@[simp] theorem State.cmdWrite_sync (s : State) (a : Nat) (bs : List Byte) :
    (s.cmdWrite a bs).sync = s.sync := rfl
@[simp] theorem State.cmdWrite_demod (s : State) (a : Nat) (bs : List Byte) :
    (s.cmdWrite a bs).demod = s.demod := rfl
@[simp] theorem State.cmdWrite_msc (s : State) (a : Nat) (bs : List Byte) :
    (s.cmdWrite a bs).msc = s.msc := rfl
@[simp] theorem State.cmdWrite_sfa (s : State) (a : Nat) (bs : List Byte) :
    (s.cmdWrite a bs).sfa = s.sfa := rfl
@[simp] theorem State.cmdWrite_q (s : State) (a : Nat) (bs : List Byte) :
    (s.cmdWrite a bs).q = s.q := rfl
@[simp] theorem State.cmdWrite_cmd (s : State) (a : Nat) (bs : List Byte) :
    (s.cmdWrite a bs).cmd =
      { s.cmd with queue := s.cmd.queue.map fun e => e.noteWritten s a bs } := rfl
@[simp] theorem State.cmdWrite_bufEpoch (s : State) (a : Nat) (bs : List Byte) :
    (s.cmdWrite a bs).bufEpoch = s.bufEpoch := rfl
@[simp] theorem State.cmdWrite_hostData (s : State) (a : Nat) (bs : List Byte) :
    (s.cmdWrite a bs).hostData = s.hostData := rfl
@[simp] theorem State.cmdWrite_turns (s : State) (a : Nat) (bs : List Byte) :
    (s.cmdWrite a bs).turns = s.turns := rfl
@[simp] theorem State.cmdWrite_tick (s : State) (a : Nat) (bs : List Byte) :
    (s.cmdWrite a bs).tick = s.tick := rfl

/-! ## `State.answer` -/

@[simp] theorem State.answer_ctl (s : State) (v : Word) : (s.answer v).ctl = s.ctl := rfl
@[simp] theorem State.answer_ev (s : State) (v : Word) : (s.answer v).ev = s.ev := rfl
@[simp] theorem State.answer_meas (s : State) (v : Word) : (s.answer v).meas = s.meas := rfl
@[simp] theorem State.answer_sel (s : State) (v : Word) : (s.answer v).sel = s.sel := rfl
@[simp] theorem State.answer_live (s : State) (v : Word) : (s.answer v).live = s.live := rfl
@[simp] theorem State.answer_snap (s : State) (v : Word) : (s.answer v).snap = s.snap := rfl
@[simp] theorem State.answer_snapSeq (s : State) (v : Word) : (s.answer v).snapSeq = s.snapSeq := rfl
@[simp] theorem State.answer_sync (s : State) (v : Word) : (s.answer v).sync = s.sync := rfl
@[simp] theorem State.answer_demod (s : State) (v : Word) : (s.answer v).demod = s.demod := rfl
@[simp] theorem State.answer_msc (s : State) (v : Word) : (s.answer v).msc = s.msc := rfl
@[simp] theorem State.answer_sfa (s : State) (v : Word) : (s.answer v).sfa = s.sfa := rfl
@[simp] theorem State.answer_q (s : State) (v : Word) : (s.answer v).q = s.q := rfl
@[simp] theorem State.answer_cmd (s : State) (v : Word) : (s.answer v).cmd = s.cmd := rfl
@[simp] theorem State.answer_buf (s : State) (v : Word) : (s.answer v).buf = s.buf := rfl
@[simp] theorem State.answer_bufEpoch (s : State) (v : Word) : (s.answer v).bufEpoch = s.bufEpoch := rfl
@[simp] theorem State.answer_turns (s : State) (v : Word) : (s.answer v).turns = s.turns := rfl
@[simp] theorem State.answer_tick (s : State) (v : Word) : (s.answer v).tick = s.tick := rfl

/-! ## `State.pushSymq` -/

@[simp] theorem State.pushSymq_ctl (s : State) (e : SymEntry) : (s.pushSymq e).ctl = s.ctl := rfl
@[simp] theorem State.pushSymq_ev (s : State) (e : SymEntry) : (s.pushSymq e).ev = s.ev := rfl
@[simp] theorem State.pushSymq_meas (s : State) (e : SymEntry) : (s.pushSymq e).meas = s.meas := rfl
@[simp] theorem State.pushSymq_sel (s : State) (e : SymEntry) : (s.pushSymq e).sel = s.sel := rfl
@[simp] theorem State.pushSymq_live (s : State) (e : SymEntry) : (s.pushSymq e).live = s.live := rfl
@[simp] theorem State.pushSymq_snap (s : State) (e : SymEntry) : (s.pushSymq e).snap = s.snap := rfl
@[simp] theorem State.pushSymq_snapSeq (s : State) (e : SymEntry) :
    (s.pushSymq e).snapSeq = s.snapSeq := rfl
@[simp] theorem State.pushSymq_sync (s : State) (e : SymEntry) : (s.pushSymq e).sync = s.sync := rfl
@[simp] theorem State.pushSymq_demod (s : State) (e : SymEntry) : (s.pushSymq e).demod = s.demod := rfl
@[simp] theorem State.pushSymq_msc (s : State) (e : SymEntry) : (s.pushSymq e).msc = s.msc := rfl
@[simp] theorem State.pushSymq_sfa (s : State) (e : SymEntry) : (s.pushSymq e).sfa = s.sfa := rfl
@[simp] theorem State.pushSymq_cmd (s : State) (e : SymEntry) : (s.pushSymq e).cmd = s.cmd := rfl
@[simp] theorem State.pushSymq_buf (s : State) (e : SymEntry) : (s.pushSymq e).buf = s.buf := rfl
@[simp] theorem State.pushSymq_bufEpoch (s : State) (e : SymEntry) :
    (s.pushSymq e).bufEpoch = s.bufEpoch := rfl
@[simp] theorem State.pushSymq_hostData (s : State) (e : SymEntry) :
    (s.pushSymq e).hostData = s.hostData := rfl
@[simp] theorem State.pushSymq_turns (s : State) (e : SymEntry) : (s.pushSymq e).turns = s.turns := rfl
@[simp] theorem State.pushSymq_tick (s : State) (e : SymEntry) : (s.pushSymq e).tick = s.tick := rfl

/-! ## `State.noteRace` -/

@[simp] theorem State.noteRace_ctl (s : State) (a n : Nat) : (s.noteRace a n).ctl = s.ctl := rfl
@[simp] theorem State.noteRace_ev (s : State) (a n : Nat) : (s.noteRace a n).ev = s.ev := rfl
@[simp] theorem State.noteRace_meas (s : State) (a n : Nat) : (s.noteRace a n).meas = s.meas := rfl
@[simp] theorem State.noteRace_sel (s : State) (a n : Nat) : (s.noteRace a n).sel = s.sel := rfl
@[simp] theorem State.noteRace_live (s : State) (a n : Nat) : (s.noteRace a n).live = s.live := rfl
@[simp] theorem State.noteRace_snap (s : State) (a n : Nat) : (s.noteRace a n).snap = s.snap := rfl
@[simp] theorem State.noteRace_snapSeq (s : State) (a n : Nat) :
    (s.noteRace a n).snapSeq = s.snapSeq := rfl
@[simp] theorem State.noteRace_sync (s : State) (a n : Nat) : (s.noteRace a n).sync = s.sync := rfl
@[simp] theorem State.noteRace_demod (s : State) (a n : Nat) : (s.noteRace a n).demod = s.demod := rfl
@[simp] theorem State.noteRace_msc (s : State) (a n : Nat) : (s.noteRace a n).msc = s.msc := rfl
@[simp] theorem State.noteRace_sfa (s : State) (a n : Nat) : (s.noteRace a n).sfa = s.sfa := rfl
@[simp] theorem State.noteRace_q (s : State) (a n : Nat) : (s.noteRace a n).q = s.q := rfl
@[simp] theorem State.noteRace_buf (s : State) (a n : Nat) : (s.noteRace a n).buf = s.buf := rfl
@[simp] theorem State.noteRace_bufEpoch (s : State) (a n : Nat) :
    (s.noteRace a n).bufEpoch = s.bufEpoch := rfl
@[simp] theorem State.noteRace_hostData (s : State) (a n : Nat) :
    (s.noteRace a n).hostData = s.hostData := rfl
@[simp] theorem State.noteRace_turns (s : State) (a n : Nat) : (s.noteRace a n).turns = s.turns := rfl
@[simp] theorem State.noteRace_tick (s : State) (a n : Nat) : (s.noteRace a n).tick = s.tick := rfl

/-! ## `State.beginTurn` -/

@[simp] theorem State.beginTurn_ctl (s : State) : (s.beginTurn).ctl = s.ctl := rfl
@[simp] theorem State.beginTurn_ev (s : State) : (s.beginTurn).ev = s.ev := rfl
@[simp] theorem State.beginTurn_meas (s : State) : (s.beginTurn).meas = s.meas := rfl
@[simp] theorem State.beginTurn_sel (s : State) : (s.beginTurn).sel = s.sel := rfl
@[simp] theorem State.beginTurn_live (s : State) : (s.beginTurn).live = s.live := rfl
@[simp] theorem State.beginTurn_snap (s : State) : (s.beginTurn).snap = s.snap := rfl
@[simp] theorem State.beginTurn_snapSeq (s : State) : (s.beginTurn).snapSeq = s.snapSeq := rfl
@[simp] theorem State.beginTurn_sync (s : State) : (s.beginTurn).sync = s.sync := rfl
@[simp] theorem State.beginTurn_demod (s : State) : (s.beginTurn).demod = s.demod := rfl
@[simp] theorem State.beginTurn_msc (s : State) : (s.beginTurn).msc = s.msc := rfl
@[simp] theorem State.beginTurn_sfa (s : State) : (s.beginTurn).sfa = s.sfa := rfl
@[simp] theorem State.beginTurn_q (s : State) : (s.beginTurn).q = s.q := rfl
@[simp] theorem State.beginTurn_cmd (s : State) : (s.beginTurn).cmd = s.cmd := rfl
@[simp] theorem State.beginTurn_buf (s : State) : (s.beginTurn).buf = s.buf := rfl
@[simp] theorem State.beginTurn_bufEpoch (s : State) : (s.beginTurn).bufEpoch = s.bufEpoch := rfl
@[simp] theorem State.beginTurn_hostData (s : State) : (s.beginTurn).hostData = s.hostData := rfl

/-! ## `State.snapshot` -/

@[simp] theorem State.snapshot_ctl (s : State) : (s.snapshot).ctl = s.ctl := rfl
@[simp] theorem State.snapshot_ev (s : State) : (s.snapshot).ev = s.ev := rfl
@[simp] theorem State.snapshot_meas (s : State) : (s.snapshot).meas = s.meas := rfl
@[simp] theorem State.snapshot_sel (s : State) : (s.snapshot).sel = s.sel := rfl
@[simp] theorem State.snapshot_live (s : State) : (s.snapshot).live = s.live := rfl
@[simp] theorem State.snapshot_sync (s : State) : (s.snapshot).sync = s.sync := rfl
@[simp] theorem State.snapshot_demod (s : State) : (s.snapshot).demod = s.demod := rfl
@[simp] theorem State.snapshot_msc (s : State) : (s.snapshot).msc = s.msc := rfl
@[simp] theorem State.snapshot_sfa (s : State) : (s.snapshot).sfa = s.sfa := rfl
@[simp] theorem State.snapshot_q (s : State) : (s.snapshot).q = s.q := rfl
@[simp] theorem State.snapshot_cmd (s : State) : (s.snapshot).cmd = s.cmd := rfl
@[simp] theorem State.snapshot_buf (s : State) : (s.snapshot).buf = s.buf := rfl
@[simp] theorem State.snapshot_bufEpoch (s : State) : (s.snapshot).bufEpoch = s.bufEpoch := rfl
@[simp] theorem State.snapshot_hostData (s : State) : (s.snapshot).hostData = s.hostData := rfl
@[simp] theorem State.snapshot_turns (s : State) : (s.snapshot).turns = s.turns := rfl
@[simp] theorem State.snapshot_tick (s : State) : (s.snapshot).tick = s.tick := rfl

/-! ## `State.finish` -/

@[simp] theorem State.finish_ev (s : State) : (s.finish).ev = s.ev := rfl
@[simp] theorem State.finish_meas (s : State) : (s.finish).meas = s.meas := rfl
@[simp] theorem State.finish_sel (s : State) : (s.finish).sel = s.sel := rfl
@[simp] theorem State.finish_live (s : State) : (s.finish).live = s.live := rfl
@[simp] theorem State.finish_snap (s : State) : (s.finish).snap = s.snap := rfl
@[simp] theorem State.finish_snapSeq (s : State) : (s.finish).snapSeq = s.snapSeq := rfl
@[simp] theorem State.finish_sync (s : State) : (s.finish).sync = s.sync := rfl
@[simp] theorem State.finish_demod (s : State) : (s.finish).demod = s.demod := rfl
@[simp] theorem State.finish_msc (s : State) : (s.finish).msc = s.msc := rfl
@[simp] theorem State.finish_sfa (s : State) : (s.finish).sfa = s.sfa := rfl
@[simp] theorem State.finish_q (s : State) : (s.finish).q = s.q := rfl
@[simp] theorem State.finish_cmd (s : State) : (s.finish).cmd = s.cmd := rfl
@[simp] theorem State.finish_buf (s : State) : (s.finish).buf = s.buf := rfl
@[simp] theorem State.finish_bufEpoch (s : State) : (s.finish).bufEpoch = s.bufEpoch := rfl
@[simp] theorem State.finish_hostData (s : State) : (s.finish).hostData = s.hostData := rfl
@[simp] theorem State.finish_turns (s : State) : (s.finish).turns = s.turns := rfl
@[simp] theorem State.finish_tick (s : State) : (s.finish).tick = s.tick := rfl

/-! ## The fields the updates write -/

@[simp] theorem State.raise_irqStatus (s : State) (c : Event) (info : Word) :
    (s.raise c info).ev.irqStatus = s.ev.irqStatus ||| (1#25 <<< c.code) := rfl
@[simp] theorem State.raise_irqEnable (s : State) (c : Event) (info : Word) :
    (s.raise c info).ev.irqEnable = s.ev.irqEnable := rfl
@[simp] theorem State.raise_errCause (s : State) (c : Event) (info : Word) :
    (s.raise c info).ev.errCause = if c.isError then BitVec.ofNat 32 (256 + c.code) else s.ev.errCause := rfl
@[simp] theorem State.raise_errInfo (s : State) (c : Event) (info : Word) :
    (s.raise c info).ev.errInfo = if c.isError then info else s.ev.errInfo := rfl
@[simp] theorem State.count_live (s : State) (i : Counter) (n : Word) :
    (s.count i n).live = s.live.add i n := rfl
@[simp] theorem State.memWrite_buf (s : State) (a : Nat) (bs : List Byte) :
    (s.memWrite a bs).buf = memStore s.buf a bs := rfl
@[simp] theorem State.answer_hostData (s : State) (v : Word) : (s.answer v).hostData = v := rfl
@[simp] theorem State.pushSymq_symq (s : State) (e : SymEntry) :
    (s.pushSymq e).q = { s.q with symq := s.q.symq ++ [e] } := rfl
@[simp] theorem State.beginTurn_turns (s : State) : s.beginTurn.turns = s.turns.drop 1 := rfl
@[simp] theorem State.beginTurn_tick (s : State) : s.beginTurn.tick = s.tick + 1 := rfl
@[simp] theorem State.snapshot_snap (s : State) : s.snapshot.snap = s.live := rfl
@[simp] theorem State.snapshot_snapSeq (s : State) : s.snapshot.snapSeq = s.snapSeq + 1 := rfl
@[simp] theorem State.finish_ctl (s : State) : s.finish.ctl = { s.ctl with finishReq := true } := rfl

end Sys2Proof.Machine
end

