-- ==== Sys2Proof/Laws/Memory.lean ====
section
/-! SUPPORT. BUF: what a write changes and leaves (read after write), and that every memory operation keeps
the canonical form. -/

namespace Sys2Proof.Machine

/-! ## Looking up a byte -/

theorem memLookup_append (m n : Mem) (a : Nat) :
    memLookup (m ++ n) a = (memLookup m a).or (memLookup n a) := by
  simp only [memLookup, List.find?_append]
  cases m.find? fun c => c.1 == a <;> simp

theorem memLookup_eq_none {m : Mem} {a : Nat} (h : ∀ c ∈ m, c.1 ≠ a) : memLookup m a = none := by
  simp only [memLookup, Option.map_eq_none_iff, List.find?_eq_none, beq_iff_eq]
  exact h

/-- The cells a write of `bs` at offset `a` lists. -/
def storedCells (a : Nat) (bs : List Byte) : Mem := (bs.zipIdx a).map fun p => (p.2, p.1)

theorem storedCells_cons (a : Nat) (b : Byte) (bs : List Byte) :
    storedCells a (b :: bs) = (a, b) :: storedCells (a + 1) bs := by
  simp [storedCells, List.zipIdx_cons]

theorem storedCells_range {a : Nat} {bs : List Byte} {c : Host.Cell} (h : c ∈ storedCells a bs) :
    a ≤ c.1 ∧ c.1 < a + bs.length := by
  induction bs generalizing a with
  | nil => simp [storedCells] at h
  | cons b bs ih =>
    rw [storedCells_cons] at h
    rcases List.mem_cons.mp h with rfl | h
    · simp
    · have := ih h
      simp only [List.length_cons]
      omega

theorem memLookup_storedCells (a : Nat) (bs : List Byte) (x : Nat) :
    memLookup (storedCells a bs) x = if a ≤ x then bs[x - a]? else none := by
  induction bs generalizing a with
  | nil => simp [storedCells, memLookup]
  | cons b bs ih =>
    rw [storedCells_cons, ← List.singleton_append, memLookup_append, ih]
    by_cases hx : a = x
    · subst hx
      simp [memLookup]
    · have hn : memLookup [(a, b)] x = none := memLookup_eq_none (by simpa using hx)
      rw [hn, Option.none_or]
      by_cases ha : a + 1 ≤ x
      · have h1 : x - a = x - (a + 1) + 1 := by omega
        simp [ha, show a ≤ x by omega, h1]
      · simp [ha, show ¬ a ≤ x by omega]

theorem memStore_eq (m : Mem) (a : Nat) (bs : List Byte) :
    memStore m a bs = m.filter (fun c => c.1 < a) ++ storedCells a bs
      ++ m.filter (fun c => a + bs.length ≤ c.1) := rfl

theorem memLookup_filter_of {m : Mem} {p : Host.Cell → Bool} {x : Nat}
    (h : ∀ c : Host.Cell, c.1 = x → p c = true) : memLookup (m.filter p) x = memLookup m x := by
  simp only [memLookup, List.find?_filter]
  congr 2
  funext c
  by_cases hc : c.1 = x <;> simp [hc, h c]

/-- A byte just written reads as it was written. -/
theorem memLookup_memStore_inside (m : Mem) (a : Nat) (bs : List Byte) {i : Nat} (h : i < bs.length) :
    memLookup (memStore m a bs) (a + i) = some bs[i] := by
  rw [memStore_eq, memLookup_append, memLookup_append,
    memLookup_eq_none (m := m.filter fun c => c.1 < a) (by
      intro c hc
      have := (List.mem_filter.mp hc).2
      simp only [decide_eq_true_eq] at this
      omega),
    memLookup_storedCells]
  simp [h]

/-- A byte outside a write reads as before. -/
theorem memLookup_memStore_outside (m : Mem) (a : Nat) (bs : List Byte) {x : Nat}
    (h : x < a ∨ a + bs.length ≤ x) : memLookup (memStore m a bs) x = memLookup m x := by
  rw [memStore_eq, memLookup_append, memLookup_append]
  have hs : memLookup (storedCells a bs) x = none :=
    memLookup_eq_none fun c hc e => by have := storedCells_range hc; omega
  rcases h with h | h
  · rw [memLookup_filter_of (x := x) (p := fun c => decide (c.1 < a)) (by intro c e; simp [e, h]), hs,
      memLookup_eq_none (m := m.filter _) (by
        intro c hc e
        have := (List.mem_filter.mp hc).2
        simp only [decide_eq_true_eq] at this
        omega)]
    simp
  · rw [hs, memLookup_eq_none (m := m.filter fun c => decide (c.1 < a)) (by
        intro c hc e
        have := (List.mem_filter.mp hc).2
        simp only [decide_eq_true_eq] at this
        omega),
      memLookup_filter_of (x := x) (p := fun c => decide (a + bs.length ≤ c.1)) (by
        intro c e; simp [e, h])]
    simp

/-! ## The canonical form -/

theorem storedCells_sorted (a : Nat) (bs : List Byte) :
    (storedCells a bs).Pairwise fun x y => x.1 < y.1 := by
  induction bs generalizing a with
  | nil => simp [storedCells]
  | cons b bs ih =>
    rw [storedCells_cons, List.pairwise_cons]
    refine ⟨fun c hc => ?_, ih (a + 1)⟩
    have := storedCells_range hc
    simp only
    omega

/-- A write inside BUF keeps the canonical form. -/
theorem memWf_memStore {m : Mem} (hm : memWf m) {a : Nat} {bs : List Byte}
    (h : a + bs.length ≤ bufBytes) : memWf (memStore m a bs) := by
  obtain ⟨hs, hr⟩ := hm
  have low : ∀ c ∈ m.filter (fun c => decide (c.1 < a)), c.1 < a := fun c hc => by
    simpa using (List.mem_filter.mp hc).2
  have high : ∀ c ∈ m.filter (fun c => decide (a + bs.length ≤ c.1)), a + bs.length ≤ c.1 := fun c hc => by
    simpa using (List.mem_filter.mp hc).2
  rw [memStore_eq]
  refine ⟨?_, fun c hc => ?_⟩
  · rw [List.pairwise_append, List.pairwise_append]
    refine ⟨⟨hs.filter _, storedCells_sorted a bs, fun x hx y hy => ?_⟩, hs.filter _, fun x hx y hy => ?_⟩
    · have := low x hx
      have := storedCells_range hy
      omega
    · have h2 := high y hy
      rcases List.mem_append.mp hx with hx | hx
      · have := low x hx
        omega
      · have := storedCells_range hx
        omega
  · rcases List.mem_append.mp hc with hc | hc
    · rcases List.mem_append.mp hc with hc | hc
      · exact hr c (List.mem_filter.mp hc).1
      · have := storedCells_range hc
        omega
    · exact hr c (List.mem_filter.mp hc).1

theorem memWf_nil : memWf [] := ⟨List.Pairwise.nil, by simp⟩

/-- BUF after a reset lists nothing, which is canonical. -/
theorem reset_memWf : memWf State.reset.buf := memWf_nil

/-! ## Reading BUF -/

/-- A byte of BUF just written reads as it was written. -/
theorem bufByte_memWrite_inside (s : State) (a : Nat) (bs : List Byte) {i : Nat} (h : i < bs.length) :
    (s.memWrite a bs).bufByte (a + i) = bs[i] := by
  simp [State.bufByte, memLookup_memStore_inside _ _ _ h]

/-- A byte of BUF outside a write reads as before. -/
theorem bufByte_memWrite_outside (s : State) (a : Nat) (bs : List Byte) {x : Nat}
    (h : x < a ∨ a + bs.length ≤ x) : (s.memWrite a bs).bufByte x = s.bufByte x := by
  simp [State.bufByte, memLookup_memStore_outside _ _ _ h]

/-- What a byte of BUF reads as depends on the written bytes and the epoch alone. -/
theorem bufByte_congr {s t : State} (hb : t.buf = s.buf) (he : t.bufEpoch = s.bufEpoch) (a : Nat) :
    t.bufByte a = s.bufByte a := by
  simp [State.bufByte, hb, he]

/-! ## The write of a command (20_memory.md R123, 93_implementation_defined.md I14) -/

/-- What a command leaves at an offset is its byte, or, where the host wrote while it executed, the host's. -/
theorem State.landed_cases (s : State) (a : Nat) (b : Byte) :
    s.landed a b = b ∨ (s.overwritten a = true ∧ s.landed a b = s.bufByte a) := by
  unfold State.landed
  split
  · next h => exact .inr ⟨(Bool.and_eq_true_iff.mp h).1, rfl⟩
  · exact .inl rfl

/-- A byte in the region a command writes. -/
theorem bufByte_cmdWrite_inside (s : State) (a : Nat) (bs : List Byte) {i : Nat} (h : i < bs.length) :
    (s.cmdWrite a bs).bufByte (a + i) = s.landed (a + i) bs[i] := by
  show (s.memWrite a _).bufByte (a + i) = _
  rw [bufByte_memWrite_inside s a _ (by simpa using h)]
  simp

/-- A byte outside the region a command writes reads as before. -/
theorem bufByte_cmdWrite_outside (s : State) (a : Nat) (bs : List Byte) {x : Nat}
    (h : x < a ∨ a + bs.length ≤ x) : (s.cmdWrite a bs).bufByte x = s.bufByte x :=
  bufByte_memWrite_outside s a _ (by simpa using h)

/-- What the write of a command notes with a queued command: at a raced offset, the byte written and the byte
present. -/
theorem CmdEntry.mem_noteWritten (e : CmdEntry) (s : State) (a : Nat) (bs : List Byte) (c : Host.Cell) :
    c ∈ (e.noteWritten s a bs).raced ↔ c ∈ e.raced ∨
      ∃ i, ∃ h : i < bs.length, c.1 = a + i ∧ (∃ b, (a + i, b) ∈ e.raced) ∧
        (c.2 = bs[i] ∨ c.2 = s.bufByte (a + i)) := by
  simp only [CmdEntry.noteWritten, CmdEntry.racedAt, List.mem_append, List.mem_flatMap, List.mem_filter,
    List.mem_cons, List.not_mem_nil, or_false, List.any_eq_true, beq_iff_eq]
  constructor
  · rintro (⟨⟨b, x⟩, ⟨hx, ⟨y, v⟩, hy, rfl⟩, hc⟩ | h)
    · obtain ⟨h1, h2, h3⟩ := List.mem_zipIdx hx
      refine .inr ⟨y - a, by omega, ?_⟩
      have ha : a + (y - a) = y := by omega
      rcases hc with rfl | rfl
      · exact ⟨ha.symm, ⟨v, by rwa [ha]⟩, .inl h3⟩
      · exact ⟨ha.symm, ⟨v, by rwa [ha]⟩, .inr (by rw [ha])⟩
    · exact .inl h
  · rintro (h | ⟨i, hi, h1, ⟨v, hv⟩, h2⟩)
    · exact .inr h
    · refine .inl ⟨(bs[i], a + i), ⟨?_, _, hv, rfl⟩, ?_⟩
      · exact List.mem_iff_getElem?.mpr ⟨i, by simp [hi]⟩
      · obtain ⟨x, b⟩ := c
        rcases h2 with h2 | h2
        · exact .inl (by simp_all)
        · exact .inr (by simp_all)

/-- The write of a command inside BUF keeps the canonical form. -/
theorem memWf_cmdWrite {s : State} (hm : memWf s.buf) {a : Nat} {bs : List Byte}
    (h : a + bs.length ≤ bufBytes) : memWf (s.cmdWrite a bs).buf :=
  memWf_memStore hm (by simpa using h)

end Sys2Proof.Machine
end

