-- ==== Sys2Proof/Laws/Ops.lean ====
section
/-! SUPPORT. What the shared operations of a command can do: completion (30_encoding.md R150), the checks
(R152), the reads of BUF (20_memory.md R122, R123), and the head of CMDQ becoming a DRAIN (46_control.md R441). -/

namespace Sys2Proof.Machine

/-! ## `noteDrain` -/

/-- `noteDrain` is the state itself but for the two counts of a DRAIN. -/
theorem State.noteDrain_cases (s : State) :
    s.noteDrain = s ∨
    (∃ e rest, s.cmd.queue = e :: rest ∧ decode e.desc = .instr .drain ∧ s.noteDrain =
      { s with cmd := { s.cmd with drainM := s.q.mscq.length, drainS := s.q.sfq.length } }) := by
  unfold State.noteDrain
  split
  · exact .inl rfl
  · next e rest hq =>
    split
    · next hd => exact .inr ⟨e, rest, hq, hd, rfl⟩
    · exact .inl rfl

@[simp] theorem State.noteDrain_ctl (s : State) : s.noteDrain.ctl = s.ctl := by
  obtain h | ⟨_, _, _, _, h⟩ := s.noteDrain_cases <;> rw [h]
@[simp] theorem State.noteDrain_ev (s : State) : s.noteDrain.ev = s.ev := by
  obtain h | ⟨_, _, _, _, h⟩ := s.noteDrain_cases <;> rw [h]
@[simp] theorem State.noteDrain_meas (s : State) : s.noteDrain.meas = s.meas := by
  obtain h | ⟨_, _, _, _, h⟩ := s.noteDrain_cases <;> rw [h]
@[simp] theorem State.noteDrain_sel (s : State) : s.noteDrain.sel = s.sel := by
  obtain h | ⟨_, _, _, _, h⟩ := s.noteDrain_cases <;> rw [h]
@[simp] theorem State.noteDrain_live (s : State) : s.noteDrain.live = s.live := by
  obtain h | ⟨_, _, _, _, h⟩ := s.noteDrain_cases <;> rw [h]
@[simp] theorem State.noteDrain_snap (s : State) : s.noteDrain.snap = s.snap := by
  obtain h | ⟨_, _, _, _, h⟩ := s.noteDrain_cases <;> rw [h]
@[simp] theorem State.noteDrain_snapSeq (s : State) : s.noteDrain.snapSeq = s.snapSeq := by
  obtain h | ⟨_, _, _, _, h⟩ := s.noteDrain_cases <;> rw [h]
@[simp] theorem State.noteDrain_sync (s : State) : s.noteDrain.sync = s.sync := by
  obtain h | ⟨_, _, _, _, h⟩ := s.noteDrain_cases <;> rw [h]
@[simp] theorem State.noteDrain_demod (s : State) : s.noteDrain.demod = s.demod := by
  obtain h | ⟨_, _, _, _, h⟩ := s.noteDrain_cases <;> rw [h]
@[simp] theorem State.noteDrain_msc (s : State) : s.noteDrain.msc = s.msc := by
  obtain h | ⟨_, _, _, _, h⟩ := s.noteDrain_cases <;> rw [h]
@[simp] theorem State.noteDrain_sfa (s : State) : s.noteDrain.sfa = s.sfa := by
  obtain h | ⟨_, _, _, _, h⟩ := s.noteDrain_cases <;> rw [h]
@[simp] theorem State.noteDrain_q (s : State) : s.noteDrain.q = s.q := by
  obtain h | ⟨_, _, _, _, h⟩ := s.noteDrain_cases <;> rw [h]
@[simp] theorem State.noteDrain_buf (s : State) : s.noteDrain.buf = s.buf := by
  obtain h | ⟨_, _, _, _, h⟩ := s.noteDrain_cases <;> rw [h]
@[simp] theorem State.noteDrain_bufEpoch (s : State) : s.noteDrain.bufEpoch = s.bufEpoch := by
  obtain h | ⟨_, _, _, _, h⟩ := s.noteDrain_cases <;> rw [h]
@[simp] theorem State.noteDrain_hostData (s : State) : s.noteDrain.hostData = s.hostData := by
  obtain h | ⟨_, _, _, _, h⟩ := s.noteDrain_cases <;> rw [h]
@[simp] theorem State.noteDrain_turns (s : State) : s.noteDrain.turns = s.turns := by
  obtain h | ⟨_, _, _, _, h⟩ := s.noteDrain_cases <;> rw [h]
@[simp] theorem State.noteDrain_tick (s : State) : s.noteDrain.tick = s.tick := by
  obtain h | ⟨_, _, _, _, h⟩ := s.noteDrain_cases <;> rw [h]
@[simp] theorem State.noteDrain_cmd_w0 (s : State) : s.noteDrain.cmd.w0 = s.cmd.w0 := by
  obtain h | ⟨_, _, _, _, h⟩ := s.noteDrain_cases <;> rw [h]
@[simp] theorem State.noteDrain_cmd_w1 (s : State) : s.noteDrain.cmd.w1 = s.cmd.w1 := by
  obtain h | ⟨_, _, _, _, h⟩ := s.noteDrain_cases <;> rw [h]
@[simp] theorem State.noteDrain_cmd_w2 (s : State) : s.noteDrain.cmd.w2 = s.cmd.w2 := by
  obtain h | ⟨_, _, _, _, h⟩ := s.noteDrain_cases <;> rw [h]
@[simp] theorem State.noteDrain_cmd_w3 (s : State) : s.noteDrain.cmd.w3 = s.cmd.w3 := by
  obtain h | ⟨_, _, _, _, h⟩ := s.noteDrain_cases <;> rw [h]
@[simp] theorem State.noteDrain_cmd_queue (s : State) : s.noteDrain.cmd.queue = s.cmd.queue := by
  obtain h | ⟨_, _, _, _, h⟩ := s.noteDrain_cases <;> rw [h]
@[simp] theorem State.noteDrain_cmd_seq (s : State) : s.noteDrain.cmd.seq = s.cmd.seq := by
  obtain h | ⟨_, _, _, _, h⟩ := s.noteDrain_cases <;> rw [h]
@[simp] theorem State.noteDrain_cmd_done (s : State) : s.noteDrain.cmd.done = s.cmd.done := by
  obtain h | ⟨_, _, _, _, h⟩ := s.noteDrain_cases <;> rw [h]
@[simp] theorem State.noteDrain_cmd_qfull (s : State) : s.noteDrain.cmd.qfull = s.cmd.qfull := by
  obtain h | ⟨_, _, _, _, h⟩ := s.noteDrain_cases <;> rw [h]
@[simp] theorem State.noteDrain_cmd_lastResult (s : State) : s.noteDrain.cmd.lastResult = s.cmd.lastResult := by
  obtain h | ⟨_, _, _, _, h⟩ := s.noteDrain_cases <;> rw [h]
@[simp] theorem State.noteDrain_cmd_lastSeq (s : State) : s.noteDrain.cmd.lastSeq = s.cmd.lastSeq := by
  obtain h | ⟨_, _, _, _, h⟩ := s.noteDrain_cases <;> rw [h]
@[simp] theorem State.noteDrain_cmd_result (s : State) : s.noteDrain.cmd.result = s.cmd.result := by
  obtain h | ⟨_, _, _, _, h⟩ := s.noteDrain_cases <;> rw [h]
@[simp] theorem State.noteDrain_cmd_held (s : State) : s.noteDrain.cmd.held = s.cmd.held := by
  obtain h | ⟨_, _, _, _, h⟩ := s.noteDrain_cases <;> rw [h]

/-- With a DRAIN at the head the counts become the lengths of MSCQ and SFQ (46_control.md R441). -/
theorem State.noteDrain_head {s : State} {e : CmdEntry} {rest : List CmdEntry}
    (hq : s.cmd.queue = e :: rest) (hd : decode e.desc = .instr .drain) :
    s.noteDrain.cmd.drainM = s.q.mscq.length ∧ s.noteDrain.cmd.drainS = s.q.sfq.length := by
  simp [State.noteDrain, hq, hd]

/-- With no DRAIN at the head nothing is recorded. -/
theorem State.noteDrain_other {s : State}
    (h : ∀ e ∈ s.cmd.queue.head?, decode e.desc ≠ .instr .drain) : s.noteDrain = s := by
  obtain hs | ⟨e, rest, hq, hd, -⟩ := s.noteDrain_cases
  · exact hs
  · exact absurd hd (h e (by simp [hq]))

/-! ## `completionEvents` -/

@[simp] theorem State.completionEvents_ctl (s : State) (r : ResultCode) (q : BitVec 16) :
    (s.completionEvents r q).ctl = s.ctl := by
  simp only [State.completionEvents]
  split <;> rfl
@[simp] theorem State.completionEvents_meas (s : State) (r : ResultCode) (q : BitVec 16) :
    (s.completionEvents r q).meas = s.meas := by
  simp only [State.completionEvents]
  split <;> rfl
@[simp] theorem State.completionEvents_sel (s : State) (r : ResultCode) (q : BitVec 16) :
    (s.completionEvents r q).sel = s.sel := by
  simp only [State.completionEvents]
  split <;> rfl
@[simp] theorem State.completionEvents_snap (s : State) (r : ResultCode) (q : BitVec 16) :
    (s.completionEvents r q).snap = s.snap := by
  simp only [State.completionEvents]
  split <;> rfl
@[simp] theorem State.completionEvents_snapSeq (s : State) (r : ResultCode) (q : BitVec 16) :
    (s.completionEvents r q).snapSeq = s.snapSeq := by
  simp only [State.completionEvents]
  split <;> rfl
@[simp] theorem State.completionEvents_sync (s : State) (r : ResultCode) (q : BitVec 16) :
    (s.completionEvents r q).sync = s.sync := by
  simp only [State.completionEvents]
  split <;> rfl
@[simp] theorem State.completionEvents_demod (s : State) (r : ResultCode) (q : BitVec 16) :
    (s.completionEvents r q).demod = s.demod := by
  simp only [State.completionEvents]
  split <;> rfl
@[simp] theorem State.completionEvents_msc (s : State) (r : ResultCode) (q : BitVec 16) :
    (s.completionEvents r q).msc = s.msc := by
  simp only [State.completionEvents]
  split <;> rfl
@[simp] theorem State.completionEvents_sfa (s : State) (r : ResultCode) (q : BitVec 16) :
    (s.completionEvents r q).sfa = s.sfa := by
  simp only [State.completionEvents]
  split <;> rfl
@[simp] theorem State.completionEvents_q (s : State) (r : ResultCode) (q : BitVec 16) :
    (s.completionEvents r q).q = s.q := by
  simp only [State.completionEvents]
  split <;> rfl
@[simp] theorem State.completionEvents_cmd (s : State) (r : ResultCode) (q : BitVec 16) :
    (s.completionEvents r q).cmd = s.cmd := by
  simp only [State.completionEvents]
  split <;> rfl
@[simp] theorem State.completionEvents_buf (s : State) (r : ResultCode) (q : BitVec 16) :
    (s.completionEvents r q).buf = s.buf := by
  simp only [State.completionEvents]
  split <;> rfl
@[simp] theorem State.completionEvents_bufEpoch (s : State) (r : ResultCode) (q : BitVec 16) :
    (s.completionEvents r q).bufEpoch = s.bufEpoch := by
  simp only [State.completionEvents]
  split <;> rfl
@[simp] theorem State.completionEvents_hostData (s : State) (r : ResultCode) (q : BitVec 16) :
    (s.completionEvents r q).hostData = s.hostData := by
  simp only [State.completionEvents]
  split <;> rfl
@[simp] theorem State.completionEvents_turns (s : State) (r : ResultCode) (q : BitVec 16) :
    (s.completionEvents r q).turns = s.turns := by
  simp only [State.completionEvents]
  split <;> rfl
@[simp] theorem State.completionEvents_tick (s : State) (r : ResultCode) (q : BitVec 16) :
    (s.completionEvents r q).tick = s.tick := by
  simp only [State.completionEvents]
  split <;> rfl

theorem State.completionEvents_ok {r : ResultCode} (h : r.isError = false) (s : State) (q : BitVec 16) :
    s.completionEvents r q = s.raise .cmdDone (completionInfo r q) := by
  simp [State.completionEvents, h]

theorem State.completionEvents_error {r : ResultCode} (h : r.isError = true) (s : State)
    (q : BitVec 16) : s.completionEvents r q =
      ((s.raise .cmdDone (completionInfo r q)).count .cmdErr 1).raise .cmdErr (completionInfo r q) := by
  simp [State.completionEvents, h]

/-! ## `complete` -/

/-- Everything `complete` does, when a command is at the head of CMDQ. -/
theorem State.complete_cons {s : State} {e : CmdEntry} {rest : List CmdEntry}
    (h : s.cmd.queue = e :: rest) (r : ResultCode) (v : Word) :
    s.complete r v =
      ({ s with cmd := s.cmd.completed e rest r v }.completionEvents r e.seq).noteDrain := by
  simp [State.complete, h]

theorem State.complete_nil {s : State} (h : s.cmd.queue = []) (r : ResultCode) (v : Word) :
    s.complete r v = s := by
  simp [State.complete, h]

@[simp] theorem State.complete_ctl (s : State) (r : ResultCode) (v : Word) :
    (s.complete r v).ctl = s.ctl := by
  unfold State.complete
  split <;> simp
@[simp] theorem State.complete_meas (s : State) (r : ResultCode) (v : Word) :
    (s.complete r v).meas = s.meas := by
  unfold State.complete
  split <;> simp
@[simp] theorem State.complete_sel (s : State) (r : ResultCode) (v : Word) :
    (s.complete r v).sel = s.sel := by
  unfold State.complete
  split <;> simp
@[simp] theorem State.complete_snap (s : State) (r : ResultCode) (v : Word) :
    (s.complete r v).snap = s.snap := by
  unfold State.complete
  split <;> simp
@[simp] theorem State.complete_snapSeq (s : State) (r : ResultCode) (v : Word) :
    (s.complete r v).snapSeq = s.snapSeq := by
  unfold State.complete
  split <;> simp
@[simp] theorem State.complete_sync (s : State) (r : ResultCode) (v : Word) :
    (s.complete r v).sync = s.sync := by
  unfold State.complete
  split <;> simp
@[simp] theorem State.complete_demod (s : State) (r : ResultCode) (v : Word) :
    (s.complete r v).demod = s.demod := by
  unfold State.complete
  split <;> simp
@[simp] theorem State.complete_msc (s : State) (r : ResultCode) (v : Word) :
    (s.complete r v).msc = s.msc := by
  unfold State.complete
  split <;> simp
@[simp] theorem State.complete_sfa (s : State) (r : ResultCode) (v : Word) :
    (s.complete r v).sfa = s.sfa := by
  unfold State.complete
  split <;> simp
@[simp] theorem State.complete_q (s : State) (r : ResultCode) (v : Word) :
    (s.complete r v).q = s.q := by
  unfold State.complete
  split <;> simp
@[simp] theorem State.complete_buf (s : State) (r : ResultCode) (v : Word) :
    (s.complete r v).buf = s.buf := by
  unfold State.complete
  split <;> simp
@[simp] theorem State.complete_bufEpoch (s : State) (r : ResultCode) (v : Word) :
    (s.complete r v).bufEpoch = s.bufEpoch := by
  unfold State.complete
  split <;> simp
@[simp] theorem State.complete_hostData (s : State) (r : ResultCode) (v : Word) :
    (s.complete r v).hostData = s.hostData := by
  unfold State.complete
  split <;> simp
@[simp] theorem State.complete_turns (s : State) (r : ResultCode) (v : Word) :
    (s.complete r v).turns = s.turns := by
  unfold State.complete
  split <;> simp
@[simp] theorem State.complete_tick (s : State) (r : ResultCode) (v : Word) :
    (s.complete r v).tick = s.tick := by
  unfold State.complete
  split <;> simp
@[simp] theorem State.complete_cmd_w0 (s : State) (r : ResultCode) (v : Word) :
    (s.complete r v).cmd.w0 = s.cmd.w0 := by
  unfold State.complete
  split <;> simp [CmdState.completed]
@[simp] theorem State.complete_cmd_w1 (s : State) (r : ResultCode) (v : Word) :
    (s.complete r v).cmd.w1 = s.cmd.w1 := by
  unfold State.complete
  split <;> simp [CmdState.completed]
@[simp] theorem State.complete_cmd_w2 (s : State) (r : ResultCode) (v : Word) :
    (s.complete r v).cmd.w2 = s.cmd.w2 := by
  unfold State.complete
  split <;> simp [CmdState.completed]
@[simp] theorem State.complete_cmd_w3 (s : State) (r : ResultCode) (v : Word) :
    (s.complete r v).cmd.w3 = s.cmd.w3 := by
  unfold State.complete
  split <;> simp [CmdState.completed]
@[simp] theorem State.complete_cmd_seq (s : State) (r : ResultCode) (v : Word) :
    (s.complete r v).cmd.seq = s.cmd.seq := by
  unfold State.complete
  split <;> simp [CmdState.completed]
@[simp] theorem State.complete_cmd_qfull (s : State) (r : ResultCode) (v : Word) :
    (s.complete r v).cmd.qfull = s.cmd.qfull := by
  unfold State.complete
  split <;> simp [CmdState.completed]

/-- A completion writes no byte of BUF. -/
@[simp] theorem State.complete_bufByte (s : State) (r : ResultCode) (v : Word) (a : Nat) :
    (s.complete r v).bufByte a = s.bufByte a := bufByte_congr (by simp) (by simp) a

/-! ## The checks (30_encoding.md R152) -/

theorem State.runCommand_nil {s : State} (h : s.cmd.queue = []) (p g : Bool) (run : State) :
    s.runCommand p g run = s := by
  simp [State.runCommand, h]

theorem State.runCommand_badDesc {s : State} (h : s.cmd.queue ≠ []) (g : Bool) (run : State) :
    s.runCommand false g run = s.complete .badDesc 0 := by
  simp [State.runCommand, h]

theorem State.runCommand_badAddr {s : State} (h : s.cmd.queue ≠ []) (run : State) :
    s.runCommand true false run = s.complete .badAddr 0 := by
  simp [State.runCommand, h]

theorem State.runCommand_run {s : State} (h : s.cmd.queue ≠ []) (run : State) :
    s.runCommand true true run = run := by
  simp [State.runCommand, h]

/-- Everything one step of a command that never waits can do. -/
theorem State.runCommand_cases (s : State) (p g : Bool) (run : State) :
    (s.cmd.queue = [] ∧ s.runCommand p g run = s) ∨
    (s.cmd.queue ≠ [] ∧ p = false ∧ s.runCommand p g run = s.complete .badDesc 0) ∨
    (s.cmd.queue ≠ [] ∧ p = true ∧ g = false ∧ s.runCommand p g run = s.complete .badAddr 0) ∨
    (s.cmd.queue ≠ [] ∧ p = true ∧ g = true ∧ s.runCommand p g run = run) := by
  by_cases h : s.cmd.queue = []
  · exact .inl ⟨h, State.runCommand_nil h p g run⟩
  · cases p
    · exact .inr (.inl ⟨h, rfl, State.runCommand_badDesc h g run⟩)
    · cases g
      · exact .inr (.inr (.inl ⟨h, rfl, rfl, State.runCommand_badAddr h run⟩))
      · exact .inr (.inr (.inr ⟨h, rfl, rfl, State.runCommand_run h run⟩))

/-- What a region inside BUF says (20_memory.md R112). -/
theorem regionOk_iff {off len align : Nat} :
    regionOk off len align = true ↔ off % align = 0 ∧ off + len ≤ bufBytes := by
  simp [regionOk]

/-- The PARAM checks of the meanings are the well-formedness of the instruction (30_encoding.md R142). -/
theorem bitrateLegal_eq (p : Profile) (b : Nat) : bitrateLegal p b = legalBitrate p b := rfl

/-! ## Reads of BUF by a command (20_memory.md R123) -/

@[simp] theorem State.memRead_length (s : State) (a n : Nat) : (s.memRead a n).length = n := by
  simp [State.memRead]

theorem State.memRead_getElem (s : State) (a n : Nat) {i : Nat} (h : i < (s.memRead a n).length) :
    (s.memRead a n)[i] = s.cmdByte (a + i) := by
  simp [State.memRead]

/-- A free choice among values is one of them. -/
theorem State.pick_mem (s : State) (a : Nat) {values : List Byte} (h : values ≠ []) (b : Byte) :
    s.pick a values b ∈ values := by
  unfold State.pick
  split
  · exact absurd rfl h
  · simp
  · next bs h0 _ =>
    have hl : 0 < values.length := List.length_pos_iff.mpr h
    rw [← List.getElem_eq_getD (h := Nat.mod_lt _ hl)]
    exact List.getElem_mem _

/-- The byte a command reads is the present one or one that a raced host write replaced. -/
theorem State.cmdByte_mem_readable (s : State) (a : Nat) : s.cmdByte a ∈ s.readable a :=
  s.pick_mem a (by simp [State.readable]) _

/-- A byte no host write raced with reads as BUF holds it. -/
theorem State.cmdByte_unraced {s : State} {a : Nat}
    (h : ∀ e ∈ s.cmd.queue.head?, ∀ c ∈ e.raced, c.1 ≠ a) : s.cmdByte a = s.bufByte a := by
  have hr : s.readable a = [s.bufByte a] := by
    cases hq : s.cmd.queue with
    | nil => simp [State.readable, hq]
    | cons e rest =>
      have hf : e.raced.filter (fun c => c.1 == a) = [] :=
        List.filter_eq_nil_iff.mpr fun c hc => by simpa using h e (by simp [hq]) c hc
      simp [State.readable, hq, hf]
  simp [State.cmdByte, hr, State.pick]

end Sys2Proof.Machine
end

