-- ==== Sys2Proof/Laws/Lengths.lean ====
section
/-! SUPPORT. The lengths of what the units compute: every command writes exactly its output region
(30_encoding.md R143). -/

namespace Sys2Proof.Machine

/-! ## Bit streams (00_scope.md R15; 42_eep_dispersal.md R310, R311) -/

@[simp] theorem packBits_length (bits : List Bool) :
    (packBits bits).length = (bits.length + 7) / 8 := by
  simp [packBits]

@[simp] theorem unpackBits_length (bs : List Byte) (n : Nat) : (unpackBits bs n).length = n := by
  simp [unpackBits]

@[simp] theorem prbsFrom_length (n : Nat) (r : BitVec 9) : (prbsFrom n r).length = n := by
  induction n generalizing r with
  | zero => rfl
  | succ n ih => simp [prbsFrom, ih]

@[simp] theorem dedisperse_length (b : List Bool) : (dedisperse b).length = b.length := by
  simp [dedisperse, prbs]

/-! ## Viterbi (41_viterbi.md R278: any input gives N bits) -/

@[simp] theorem softSteps_length (soft : List SoftBit) (n : Nat) : (softSteps soft n).length = n := by
  simp [softSteps]

@[simp] theorem trellis_length (limit : Option Nat) (pm : List Metric) (vs : List (List Nat)) :
    (trellis limit pm vs).length = vs.length := by
  induction vs generalizing pm with
  | nil => rfl
  | cons v vs ih => simp [trellis, ih]

theorem traceback_length (σ : Nat) (decs : List (List Bool)) (tail : List Bool) :
    (traceback σ decs tail).length = decs.length + tail.length := by
  induction decs generalizing σ tail with
  | nil => simp [traceback]
  | cons d ds ih =>
    simp only [traceback, ih, List.length_cons]
    omega

@[simp] theorem viterbiWith_length (limit : Option Nat) (soft : List SoftBit) (n : Nat) :
    (viterbiWith limit soft n).length = n := by
  simp [viterbiWith, traceback_length]

@[simp] theorem viterbi_length (soft : List SoftBit) (n : Nat) : (viterbi soft n).length = n := by
  simp [viterbi]

/-! ## De-puncturing (42_eep_dispersal.md R302, R303) -/

@[simp] theorem spreadSoft_length (m : List Bool) (x : List SoftBit) :
    (spreadSoft m x).length = m.length := by
  induction m generalizing x with
  | nil => rfl
  | cons b m ih =>
    cases b
    · simp [spreadSoft, ih]
    · cases x <;> simp [spreadSoft, ih]

theorem punctureMask_length (r : EepRow) :
    (punctureMask r).length = 128 * (r.l1 + r.l2) + 24 := by
  simp only [punctureMask, punctureVector, tailVector, List.length_append, List.length_flatten,
    List.map_replicate, List.sum_replicate_nat, List.length_map, List.length_range]
  simp only [List.length_cons, List.length_nil]
  omega

/-- In every row of the table the blocks cover the payload (42_eep_dispersal.md R302). -/
theorem eepRow_blocks {p : Profile} {bitrate : Nat} (h : bitrateLegal p bitrate = true) (l : Nat)
    (hl : l ∈ [1, 2, 3, 4]) : 32 * ((eepRow p l bitrate).l1 + (eepRow p l bitrate).l2) = 24 * bitrate := by
  simp only [List.mem_cons, List.not_mem_nil, or_false] at hl
  cases p
  · simp only [bitrateLegal, Bool.and_eq_true, beq_iff_eq, decide_eq_true_eq] at h
    rcases hl with rfl | rfl | rfl | rfl
    · simp only [eepRow]; omega
    · simp only [eepRow]; split <;> simp only <;> omega
    · simp only [eepRow]; omega
    · simp only [eepRow]; omega
  · simp only [bitrateLegal, Bool.and_eq_true, beq_iff_eq, decide_eq_true_eq] at h
    rcases hl with rfl | rfl | rfl | rfl <;> simp only [eepRow] <;> omega

theorem level_mem (levelM1 : BitVec 2) : levelM1.toNat + 1 ∈ [1, 2, 3, 4] := by
  have := levelM1.isLt
  simp only [List.mem_cons, List.not_mem_nil, or_false]
  omega

theorem depuncture_length {p : Profile} {bitrate : Nat} (h : bitrateLegal p bitrate = true) {l : Nat}
    (hl : l ∈ [1, 2, 3, 4]) (x : List SoftBit) :
    (depuncture x p l bitrate).length = 4 * (24 * bitrate + 6) := by
  have := eepRow_blocks h l hl
  simp only [depuncture, spreadSoft_length, punctureMask_length]
  omega

/-! ## Reed–Solomon (43_reed_solomon.md R343; 45_superframe.md R404) -/

theorem correctErrors_length (conn omega : List Byte) (r : List Byte) (roots : List (Nat × Byte)) :
    (correctErrors conn omega r roots).length = r.length := by
  unfold correctErrors
  induction roots generalizing r with
  | nil => rfl
  | cons p ps ih => rw [List.foldl_cons, ih, List.length_set]

theorem rsDecode_length {r c : List Byte} {n : Nat} (h : rsDecode r = some (c, n)) :
    c.length = r.length := by
  simp only [rsDecode] at h
  split at h
  · rw [(by simpa using h : r = c ∧ 0 = n).1]
  · split at h
    · rw [← (by simpa using h : correctErrors _ _ r _ = c ∧ _).1, correctErrors_length]
    · exact absurd h (by simp)

@[simp] theorem rsBlock_length (r : List Byte) : (rsBlock r).length = r.length := by
  unfold rsBlock
  cases h : rsDecode r with
  | none => rfl
  | some x => exact rsDecode_length h

@[simp] theorem rsWindow_bytes_length (w : List Byte) (cw : Nat) :
    (rsWindow w cw).bytes.length = rsLength * cw := by
  simp [rsWindow]

/-! ## The numeric units -/

@[simp] theorem fft_length {α : Type} (A : Arith α) (x : List (Cx α)) : (fft A x).length = x.length := by
  simp [fft]

@[simp] theorem ifft_length {α : Type} (A : Arith α) (x : List (Cx α)) : (ifft A x).length = x.length := by
  simp [ifft]

@[simp] theorem cxVector_length {α : Type} (A : Arith α) (n : Nat) (bs : List Byte) :
    (cxVector A n bs).length = n := by
  simp [cxVector]

@[simp] theorem bytesOfCxVector_length {α : Type} (A : Arith α) (x : List (Cx α)) :
    (bytesOfCxVector A x).length = 8 * x.length := by
  induction x with
  | nil => rfl
  | cons z x ih =>
    simp only [bytesOfCxVector, List.map_cons, List.flatten_cons, List.length_append] at *
    simp only [ih, bytesOfCx, bytesOfWord, List.length_append, List.length_map, List.length_range,
      List.length_cons]
    omega

theorem freqMap_length : freqMap.length = carriers := by decide +kernel

@[simp] theorem softBits_length {α : Type} (A : Arith α) (scale : α) (zprev z : List (Cx α)) :
    (softBits A scale zprev z).length = 2 * carriers := by
  simp only [softBits, List.length_append, List.length_map, freqMap_length]
  omega

end Sys2Proof.Machine
end

