-- ==== Sys2Proof/Laws/PerInstr.lean ====
section
/-! SUPPORT. A statement about every instruction, one lemma per constructor of `Instr`: the encoder writes 0
in every reserved bit of W0, W1 and W2 (30_encoding.md R140). -/

namespace Sys2Proof

/-- A descriptor made of its fields has its reserved bits 0 (30_encoding.md R140). -/
theorem descriptorOf_reservedZero (op sub : BitVec 8) (src dst : BufOffset) (param : Word) :
    (descriptorOf op sub src dst param).reservedZero = true := by
  simp only [descriptorOf, Descriptor.reservedZero, Bool.and_eq_true, beq_iff_eq]
  refine ⟨⟨?_, ?_⟩, ?_⟩ <;> ext i hi <;> rw [BitVec.getElem_extractLsb', BitVec.getLsbD_append]
  · rw [BitVec.getLsbD_append, if_neg (by omega), if_neg (by omega)]
    simp
  · rw [if_neg (by omega)]
    simp
  · rw [if_neg (by omega)]
    simp

namespace Laws.EncodeReservedZero

/-- The reserved bits of an instruction's descriptor are 0. -/
def Statement (i : Instr) : Prop := (encode i).reservedZero = true

theorem nop : Statement .nop := descriptorOf_reservedZero _ _ _ _ _
theorem fft (inv : Bool) (src dst : BufOffset) : Statement (.fft inv src dst) :=
  descriptorOf_reservedZero _ _ _ _ _
theorem findidx (src : BufOffset) : Statement (.findidx src) := descriptorOf_reservedZero _ _ _ _ _
theorem coarse (src : BufOffset) : Statement (.coarse src) := descriptorOf_reservedZero _ _ _ _ _
theorem ddemod (src dst cur : BufOffset) : Statement (.ddemod src dst cur) :=
  descriptorOf_reservedZero _ _ _ _ _
theorem vitdec (src dst : BufOffset) (n : BitVec 20) : Statement (.vitdec src dst n) :=
  descriptorOf_reservedZero _ _ _ _ _
theorem depunct (src dst : BufOffset) (bitrate : BitVec 11) (profile : Profile) (levelM1 : BitVec 2) :
    Statement (.depunct src dst bitrate profile levelM1) := descriptorOf_reservedZero _ _ _ _ _
theorem descr (src dst : BufOffset) (nbits : BitVec 21) : Statement (.descr src dst nbits) :=
  descriptorOf_reservedZero _ _ _ _ _
theorem rsdec (src dst : BufOffset) : Statement (.rsdec src dst) := descriptorOf_reservedZero _ _ _ _ _
theorem sfchk (src dst : BufOffset) (cw : BitVec 8) : Statement (.sfchk src dst cw) :=
  descriptorOf_reservedZero _ _ _ _ _
theorem firecrc (src : BufOffset) : Statement (.firecrc src) := descriptorOf_reservedZero _ _ _ _ _
theorem crc16 (src : BufOffset) (nbytes : BitVec 19) : Statement (.crc16 src nbytes) :=
  descriptorOf_reservedZero _ _ _ _ _
theorem injmsc (src : BufOffset) : Statement (.injmsc src) := descriptorOf_reservedZero _ _ _ _ _
theorem injsf (src : BufOffset) : Statement (.injsf src) := descriptorOf_reservedZero _ _ _ _ _
theorem drain : Statement .drain := descriptorOf_reservedZero _ _ _ _ _

end Laws.EncodeReservedZero

end Sys2Proof
end

