-- ==== Sys2Proof/Laws/Step.lean ====
section
/-! SUPPORT. What one step is made of: a turn begun, taken and ended (10_state.md R33, 46_control.md R452). -/

namespace Sys2Proof.Machine

/-- A step is the next turn, taken in the state in which it has begun, and ended. -/
theorem step_eq (s : State) : step s = settleOutcome (runTurn s.nextTurn s.beginTurn) := rfl

/-- With a turn listed, that turn is taken. -/
theorem nextTurn_cons {s : State} {t : Turn} {ts : List Turn} (h : s.turns = t :: ts) :
    s.nextTurn = t := by
  simp [State.nextTurn, h]

/-- A CMD step with CMDQ empty changes nothing. -/
theorem cmdStep_nil {s : State} (h : s.cmd.queue = []) : cmdStep s = .next s := by
  simp [cmdStep, h]

/-- A CMD step on a descriptor that decodes runs that instruction. -/
theorem cmdStep_instr {s : State} {e : CmdEntry} {rest : List CmdEntry} {i : Instr}
    (h : s.cmd.queue = e :: rest) (hd : decode e.desc = .instr i) : cmdStep s = exec i s := by
  simp [cmdStep, h, hd]

theorem cmdStep_illegal {s : State} {e : CmdEntry} {rest : List CmdEntry}
    (h : s.cmd.queue = e :: rest) (hd : decode e.desc = .illegal) :
    cmdStep s = .next (s.complete .illegal 0) := by
  simp [cmdStep, h, hd]

theorem cmdStep_badDesc {s : State} {e : CmdEntry} {rest : List CmdEntry}
    (h : s.cmd.queue = e :: rest) (hd : decode e.desc = .badDesc) :
    cmdStep s = .next (s.complete .badDesc 0) := by
  simp [cmdStep, h, hd]

/-- Everything the end of a turn can do (46_control.md R452). -/
theorem State.settle_cases (s : State) :
    (s.settle = s) ∨
    (s.drained = true ∧ s.ctl.finished = false ∧ s.settle =
      { s with ctl := { s.ctl with finished := true }, q := { s.q with iqf := [] } }.raise .halted 2) := by
  unfold State.settle
  split
  · next h => exact .inr ⟨by simp_all, by simp_all, rfl⟩
  · exact .inl rfl

@[simp] theorem State.settle_meas (s : State) : s.settle.meas = s.meas := by
  obtain h | ⟨_, _, h⟩ := s.settle_cases <;> rw [h] <;> rfl
@[simp] theorem State.settle_sel (s : State) : s.settle.sel = s.sel := by
  obtain h | ⟨_, _, h⟩ := s.settle_cases <;> rw [h] <;> rfl
@[simp] theorem State.settle_live (s : State) : s.settle.live = s.live := by
  obtain h | ⟨_, _, h⟩ := s.settle_cases <;> rw [h] <;> rfl
@[simp] theorem State.settle_snap (s : State) : s.settle.snap = s.snap := by
  obtain h | ⟨_, _, h⟩ := s.settle_cases <;> rw [h] <;> rfl
@[simp] theorem State.settle_snapSeq (s : State) : s.settle.snapSeq = s.snapSeq := by
  obtain h | ⟨_, _, h⟩ := s.settle_cases <;> rw [h] <;> rfl
@[simp] theorem State.settle_sync (s : State) : s.settle.sync = s.sync := by
  obtain h | ⟨_, _, h⟩ := s.settle_cases <;> rw [h] <;> rfl
@[simp] theorem State.settle_demod (s : State) : s.settle.demod = s.demod := by
  obtain h | ⟨_, _, h⟩ := s.settle_cases <;> rw [h] <;> rfl
@[simp] theorem State.settle_msc (s : State) : s.settle.msc = s.msc := by
  obtain h | ⟨_, _, h⟩ := s.settle_cases <;> rw [h] <;> rfl
@[simp] theorem State.settle_sfa (s : State) : s.settle.sfa = s.sfa := by
  obtain h | ⟨_, _, h⟩ := s.settle_cases <;> rw [h] <;> rfl
@[simp] theorem State.settle_cmd (s : State) : s.settle.cmd = s.cmd := by
  obtain h | ⟨_, _, h⟩ := s.settle_cases <;> rw [h] <;> rfl
@[simp] theorem State.settle_buf (s : State) : s.settle.buf = s.buf := by
  obtain h | ⟨_, _, h⟩ := s.settle_cases <;> rw [h] <;> rfl
@[simp] theorem State.settle_bufEpoch (s : State) : s.settle.bufEpoch = s.bufEpoch := by
  obtain h | ⟨_, _, h⟩ := s.settle_cases <;> rw [h] <;> rfl
@[simp] theorem State.settle_hostData (s : State) : s.settle.hostData = s.hostData := by
  obtain h | ⟨_, _, h⟩ := s.settle_cases <;> rw [h] <;> rfl
@[simp] theorem State.settle_turns (s : State) : s.settle.turns = s.turns := by
  obtain h | ⟨_, _, h⟩ := s.settle_cases <;> rw [h] <;> rfl
@[simp] theorem State.settle_tick (s : State) : s.settle.tick = s.tick := by
  obtain h | ⟨_, _, h⟩ := s.settle_cases <;> rw [h] <;> rfl

end Sys2Proof.Machine
end

