-- ==== Sys2Proof/Laws/Streaming.lean ====
section
/-! SUPPORT. What a step of a streaming agent can touch: never run control, the selection, the snapshot, BUF
or the command queue (10_state.md R33, 20_memory.md R101). One lemma per operation. -/

namespace Sys2Proof.Machine

/-- From `s` to `t` only the pipeline changed: `t` has the run control, selection, snapshot, BUF and CMD
registers of `s`, but for the counts of a waiting DRAIN. -/
structure PipelineOnly (s t : State) : Prop where
  ctl : t.ctl = s.ctl
  sel : t.sel = s.sel
  snap : t.snap = s.snap
  snapSeq : t.snapSeq = s.snapSeq
  buf : t.buf = s.buf
  bufEpoch : t.bufEpoch = s.bufEpoch
  hostData : t.hostData = s.hostData
  turns : t.turns = s.turns
  tick : t.tick = s.tick
  cmd : t.cmd = { s.cmd with drainM := t.cmd.drainM, drainS := t.cmd.drainS }

namespace PipelineOnly

theorem refl (s : State) : PipelineOnly s s := ⟨rfl, rfl, rfl, rfl, rfl, rfl, rfl, rfl, rfl, rfl⟩

theorem trans {s t u : State} (h : PipelineOnly s t) (k : PipelineOnly t u) : PipelineOnly s u :=
  ⟨k.ctl.trans h.ctl, k.sel.trans h.sel, k.snap.trans h.snap, k.snapSeq.trans h.snapSeq,
    k.buf.trans h.buf, k.bufEpoch.trans h.bufEpoch, k.hostData.trans h.hostData, k.turns.trans h.turns,
    k.tick.trans h.tick, by rw [k.cmd, h.cmd]⟩

/-- An update of the pipeline's fields. -/
theorem update (s : State) (ev : EventRegs) (meas : Measurements) (live : Counters) (sync : SyncState)
    (demod : DemodState) (msc : MscState) (sfa : SfaState) (q : Queues) :
    PipelineOnly s { s with
      ev := ev, meas := meas, live := live, sync := sync, demod := demod, msc := msc, sfa := sfa, q := q } :=
  ⟨rfl, rfl, rfl, rfl, rfl, rfl, rfl, rfl, rfl, rfl⟩

theorem raise (s : State) (c : Event) (info : Word) : PipelineOnly s (s.raise c info) :=
  update s _ s.meas s.live s.sync s.demod s.msc s.sfa s.q

theorem count (s : State) (i : Counter) (n : Word) : PipelineOnly s (s.count i n) :=
  update s s.ev s.meas _ s.sync s.demod s.msc s.sfa s.q

theorem raiseIf (s : State) (b : Bool) (c : Event) (info : Word) :
    PipelineOnly s (s.raiseIf b c info) := by
  cases b
  · exact refl s
  · exact raise s c info

theorem setSync (s : State) (k : SyncState) : PipelineOnly s { s with sync := k } :=
  update s s.ev s.meas s.live k s.demod s.msc s.sfa s.q

theorem setDemod (s : State) (m : DemodState) : PipelineOnly s { s with demod := m } :=
  update s s.ev s.meas s.live s.sync m s.msc s.sfa s.q

theorem setQueues (s : State) (q : Queues) : PipelineOnly s { s with q := q } :=
  update s s.ev s.meas s.live s.sync s.demod s.msc s.sfa q

/-- A counter and an event. -/
theorem report (s : State) (i : Counter) (n : Word) (c : Event) (info : Word) :
    PipelineOnly s ((s.count i n).raise c info) := (count s i n).trans (raise _ c info)

/-! ## ACQ and SYNC -/

theorem acqStep (s : State) : PipelineOnly s s.acqStep := by
  unfold State.acqStep
  split
  · exact refl s
  · split
    · exact update s s.ev s.meas s.live s.sync s.demod s.msc s.sfa _
    · exact refl s

theorem abortFrame (s : State) : PipelineOnly s s.abortFrame := by
  unfold State.abortFrame
  split
  · exact update s s.ev s.meas s.live _ s.demod s.msc s.sfa _
  · exact refl s

theorem restart (s : State) : PipelineOnly s s.restart :=
  (abortFrame s).trans (update _ s.abortFrame.ev _ s.abortFrame.live _ s.abortFrame.demod
    s.abortFrame.msc s.abortFrame.sfa s.abortFrame.q)

theorem syncTimeoutStep (s : State) : PipelineOnly s s.syncTimeoutStep :=
  (report s _ _ _ _).trans (restart _)

theorem correctFrame (s : State) : PipelineOnly s s.correctFrame :=
  update s s.ev _ s.live _ s.demod s.msc s.sfa s.q

theorem frameEnd (s : State) : PipelineOnly s s.frameEnd :=
  ((correctFrame s).trans (report _ .frames 1 .frameDone s.sync.fseq)).trans (setSync _ _)

theorem emitSymbol (s : State) : PipelineOnly s s.emitSymbol :=
  update s s.ev s.meas s.live _ s.demod s.msc s.sfa _

theorem symbolDone (s : State) : PipelineOnly s s.symbolDone := by
  unfold State.symbolDone
  split
  · exact (emitSymbol s).trans (frameEnd _)
  · exact (emitSymbol s).trans ⟨rfl, rfl, rfl, rfl, rfl, rfl, rfl, rfl, rfl, rfl⟩

theorem usefulSample (s : State) (y : Cx Num) : PipelineOnly s (s.usefulSample y) :=
  update s s.ev s.meas s.live _ s.demod s.msc s.sfa s.q

theorem symbolSample (s : State) (y : Cx Num) : PipelineOnly s (s.symbolSample y) := by
  unfold State.symbolSample
  split
  · split <;> exact update s s.ev s.meas s.live _ s.demod s.msc s.sfa s.q
  · split
    · exact (usefulSample s y).trans (symbolDone _)
    · exact usefulSample s y

theorem peakFailed (s : State) : PipelineOnly s s.peakFailed :=
  ((update s s.ev _ s.live s.sync s.demod s.msc s.sfa s.q).trans (report _ _ _ _ _)).trans (restart _)

theorem startSymbols (s : State) (d : Nat) : PipelineOnly s (s.startSymbols d) :=
  update s s.ev _ s.live _ s.demod s.msc s.sfa s.q

theorem captureDone (s : State) : PipelineOnly s s.captureDone := by
  unfold State.captureDone
  split
  · exact peakFailed s
  · split
    · split
      · exact refl s
      · exact (startSymbols s _).trans (symbolDone _)
    · exact startSymbols s _

theorem consume (s : State) (y : Cx Num) : PipelineOnly s (s.consume y) := by
  unfold State.consume
  split
  · exact refl s
  · split <;> exact update s s.ev s.meas s.live _ s.demod s.msc s.sfa s.q
  · exact update s s.ev s.meas s.live _ s.demod s.msc s.sfa s.q
  · exact update s s.ev s.meas s.live _ s.demod s.msc s.sfa s.q
  · exact update s s.ev s.meas s.live _ s.demod s.msc s.sfa s.q
  · exact symbolSample s y

theorem takeSample (s : State) (x : Cx Num) (rest : List (Cx Num)) :
    PipelineOnly s (s.takeSample x rest) := update s s.ev _ s.live _ s.demod s.msc s.sfa _

theorem sampleStep (s : State) : PipelineOnly s s.sampleStep := by
  unfold State.sampleStep
  split
  · exact refl s
  · split
    · exact refl s
    · exact (takeSample s _ _).trans (consume _ _)

theorem syncStep (s : State) : PipelineOnly s s.syncStep := by
  unfold State.syncStep
  split
  · exact refl s
  · split
    · exact setSync s _
    · exact sampleStep s
    · split
      · exact setSync s _
      · split
        · exact syncTimeoutStep s
        · exact sampleStep s
    · split
      · exact setSync s _
      · split
        · exact syncTimeoutStep s
        · exact sampleStep s
    · split
      · exact sampleStep s
      · exact captureDone s
    · exact sampleStep s

theorem nosampleStep (s : State) : PipelineOnly s s.nosampleStep := by
  unfold State.nosampleStep
  split
  · exact ((report s _ _ _ _).trans (setSync _ _)).trans (restart _)
  · exact refl s

/-! ## DEMOD -/

theorem ficEmit (s : State) (f : Word) : PipelineOnly s (s.ficEmit f) := by
  unfold State.ficEmit
  split
  · exact (update s s.ev s.meas s.live s.sync s.demod s.msc s.sfa _).trans (report _ _ _ _ _)
  · exact report s _ _ _ _

theorem cifEmit (s : State) (a : Selection) : PipelineOnly s (s.cifEmit a) := by
  unfold State.cifEmit
  split
  · exact update s s.ev s.meas s.live s.sync s.demod s.msc s.sfa _
  · exact refl s

theorem demodSymbol (s : State) (f : Word) (l : Nat) (x : List (Cx Num)) :
    PipelineOnly s (s.demodSymbol f l x) := by
  unfold State.demodSymbol
  dsimp only
  split
  · exact setDemod s _
  · split
    · exact refl s
    · split
      · unfold State.ficSymbol
        dsimp only
        split
        · exact ((setDemod s _).trans (setDemod _ _)).trans (ficEmit _ _)
        · exact (setDemod s _).trans (setDemod _ _)
      · unfold State.cifSymbol
        dsimp only
        split
        · exact (((setDemod s _).trans (setDemod _ _)).trans (cifEmit _ _)).trans (setDemod _ _)
        · exact (setDemod s _).trans (setDemod _ _)

theorem demodEntry (s : State) (e : SymEntry) : PipelineOnly s (s.demodEntry e) := by
  unfold State.demodEntry
  split
  · exact setDemod s _
  · exact demodSymbol s _ _ _

theorem demodStep (s : State) : PipelineOnly s s.demodStep := by
  unfold State.demodStep
  split
  · exact refl s
  · split
    · exact refl s
    · split
      · exact refl s
      · exact (setQueues s _).trans (demodEntry _ _)

/-! ## MSC and SFA -/

theorem popMscq (s : State) (rest : List (BitVec 16 × List SoftBit)) (b : Bool) :
    PipelineOnly s (s.popMscq rest b) := ⟨rfl, rfl, rfl, rfl, rfl, rfl, rfl, rfl, rfl, rfl⟩

theorem popSfq (s : State) (rest : List (BitVec 16 × List Byte)) : PipelineOnly s (s.popSfq rest) :=
  ⟨rfl, rfl, rfl, rfl, rfl, rfl, rfl, rfl, rfl, rfl⟩

theorem discardStale (s : State) (gen : BitVec 16) : PipelineOnly s (s.discardStale gen) :=
  report s _ _ _ _

theorem acceptFragment (s : State) (rest : List (BitVec 16 × List SoftBit)) (m : MscState)
    (p : List (BitVec 16 × List Byte)) : PipelineOnly s (s.acceptFragment rest m p) :=
  ((popMscq s rest (!p.isEmpty)).trans (count _ .cifIn 1)).trans
    ⟨rfl, rfl, rfl, rfl, rfl, rfl, rfl, rfl, rfl, rfl⟩

theorem mscStep (s : State) : PipelineOnly s s.mscStep := by
  unfold State.mscStep
  split
  · exact refl s
  · split
    · exact refl s
    · dsimp only
      split
      · exact (popMscq s _ _).trans (discardStale _ _)
      · exact acceptFragment s _ _ _

theorem countRsWindow (s : State) (r : RsWindow) : PipelineOnly s (s.countRsWindow r) :=
  (((count s _ _).trans (count _ _ _)).trans (raiseIf _ _ _ _)).trans (raiseIf _ _ _ _)

theorem emitRecord (s : State) (r : List Word) (c : Event) (i : Word) :
    PipelineOnly s (s.emitRecord r c i) := by
  unfold State.emitRecord
  split
  · exact (update s s.ev s.meas s.live s.sync s.demod s.msc s.sfa _).trans (raise _ _ _)
  · exact report s _ _ _ _

theorem processAu (s : State) (w : List Byte) (cw h i start stop : Nat) :
    PipelineOnly s (s.processAu w cw h i start stop) := by
  unfold State.processAu
  dsimp only
  split
  · exact report s _ _ _ _
  · split
    · exact (count s _ _).trans (emitRecord _ _ _ _)
    · exact report s _ _ _ _

theorem processAus (s : State) (w : List Byte) (cw h : Nat) (st : Nat → Nat) (is : List Nat) :
    PipelineOnly s (s.processAus w cw h st is) := by
  induction is generalizing s with
  | nil => exact refl s
  | cons i is ih => exact (processAu s w cw h i _ _).trans (ih _)

theorem extractAus (s : State) (w : List Byte) (cw : Nat) : PipelineOnly s (s.extractAus w cw) :=
  processAus s w cw _ _ _

theorem enterSynced (s : State) : PipelineOnly s s.enterSynced :=
  (update s s.ev s.meas s.live s.sync s.demod s.msc _ s.q).trans (raiseIf _ _ _ _)

theorem cacheFormat (s : State) (w : List Byte) : PipelineOnly s (s.cacheFormat w) := by
  unfold State.cacheFormat
  split
  · exact refl s
  · exact (update s s.ev s.meas s.live s.sync s.demod s.msc _ s.q).trans (emitRecord _ _ _ _)

theorem passWindow (s : State) (w : List Byte) (cw n : Nat) : PipelineOnly s (s.passWindow w cw n) := by
  unfold State.passWindow
  split
  · exact enterSynced s
  · exact (((enterSynced s).trans (count _ _ _)).trans (cacheFormat _ _)).trans (extractAus _ _ _)

theorem countFireFail (s : State) (b : Bool) : PipelineOnly s (s.countFireFail b) := by
  unfold State.countFireFail
  split
  · exact refl s
  · exact report s _ _ _ _

theorem failWindow (s : State) (b : Bool) : PipelineOnly s (s.failWindow b) :=
  ((countFireFail s b).trans (raiseIf _ (s.sfa.phase == SfPhase.synced) .sfLost 0)).trans
    ⟨rfl, rfl, rfl, rfl, rfl, rfl, rfl, rfl, rfl, rfl⟩

theorem attemptWindow (s : State) (cw : Nat) : PipelineOnly s (s.attemptWindow cw) := by
  unfold State.attemptWindow
  dsimp only
  split
  · exact (countRsWindow s _).trans (passWindow _ _ _ _)
  · exact (countRsWindow s _).trans (failWindow _ _)

theorem storePayload (s : State) (b : List Byte) : PipelineOnly s (s.storePayload b) :=
  update s s.ev s.meas s.live s.sync s.demod s.msc _ s.q

theorem assemble (s : State) (b : List Byte) (cw : Nat) : PipelineOnly s (s.assemble b cw) := by
  unfold State.assemble
  split
  · exact (storePayload s b).trans (attemptWindow _ _)
  · exact storePayload s b

theorem adoptSfaGen (s : State) (gen : BitVec 16) : PipelineOnly s (s.adoptSfaGen gen) := by
  unfold State.adoptSfaGen
  split
  · exact refl s
  · exact update s s.ev s.meas s.live s.sync s.demod s.msc _ s.q

theorem sfaStep (s : State) : PipelineOnly s s.sfaStep := by
  unfold State.sfaStep
  split
  · exact refl s
  · split
    · exact refl s
    · split
      · exact (popSfq s _).trans (discardStale _ _)
      · exact ((popSfq s _).trans (adoptSfaGen _ _)).trans (assemble _ _ _)

end PipelineOnly

end Sys2Proof.Machine
end

