-- ==== Sys2Proof/Tests/Slice0.lean ====
section
/-! SUPPORT. Tests: each expected result is a value of spec/95_test_vectors.md or of the rule named; and for
each statement with hypotheses a state and operands that meet them all. -/

namespace Sys2Proof.Tests

open Sys2Proof.Machine Sys2Proof.Claims

/-! ## Well-formedness: each check refuses an ill-formed term (30_encoding.md R142) -/

theorem test_wf_ddemod : Instr.wellFormed (.ddemod 0 0 4) = false := by decide
theorem test_wf_vitdec : Instr.wellFormed (.vitdec 0 0 0) = false := by decide
theorem test_wf_depunct_A : Instr.wellFormed (.depunct 0 0 12 .A 2) = false := by decide
theorem test_wf_depunct_B : Instr.wellFormed (.depunct 0 0 48 .B 2) = false := by decide
theorem test_wf_depunct_zero : Instr.wellFormed (.depunct 0 0 0 .A 2) = false := by decide
theorem test_wf_descr : Instr.wellFormed (.descr 0 0 0) = false := by decide
theorem test_wf_sfchk : Instr.wellFormed (.sfchk 0 0 0) = false := by decide
theorem test_wf_crc16 : Instr.wellFormed (.crc16 0 262145) = false := by decide
theorem test_wf_accepts : [Instr.nop, .ddemod 0 0 8, .vitdec 0 0 1, .depunct 0 0 8 .A 2, .depunct 0 0 32 .B 2,
    .descr 0 0 1, .sfchk 0 0 1, .crc16 0 262144].all Instr.wellFormed = true := by decide

/-! ## Decoding: the words of 30_encoding.md R148 -/

theorem test_decode_nop : decode ⟨0x00000000, 0, 0, 0⟩ = .instr .nop := by decide
theorem test_decode_fft : decode ⟨0x00000001, 0x3C000, 0x4000, 0⟩ = .instr (.fft false 0x3C000 0x4000) := by
  decide
theorem test_decode_fft_inv : decode ⟨0x00000101, 8, 0x20000, 0⟩ = .instr (.fft true 8 0x20000) := by decide
theorem test_decode_findidx : decode ⟨0x00000002, 0x12340, 0, 0⟩ = .instr (.findidx 0x12340) := by decide
theorem test_decode_coarse : decode ⟨0x00000003, 0x3FFFF, 0, 0⟩ = .instr (.coarse 0x3FFFF) := by decide
theorem test_decode_ddemod : decode ⟨0x00000004, 0x4000, 0x9001, 0x8000⟩
    = .instr (.ddemod 0x4000 0x9001 0x8000) := by decide
theorem test_decode_vitdec : decode ⟨0x00000005, 0x00000000, 0x00002000, 0x00000300⟩
    = .instr (.vitdec 0 0x2000 768) := by decide
theorem test_decode_depunct : decode ⟨0x00000006, 1, 0x400, 0x00007020⟩
    = .instr (.depunct 1 0x400 32 .B 3) := by decide
theorem test_decode_descr : decode ⟨0x00000007, 0x800, 0x900, 0x001000C0⟩
    = .instr (.descr 0x800 0x900 0x1000C0) := by decide
theorem test_decode_rsdec : decode ⟨0x00000008, 0x0003FFC0, 0x00000100, 0⟩
    = .instr (.rsdec 0x3FFC0 0x100) := by decide
theorem test_decode_sfchk : decode ⟨0x00000009, 0, 0x200, 0xFF⟩ = .instr (.sfchk 0 0x200 255) := by decide
theorem test_decode_firecrc : decode ⟨0x0000000A, 0x202, 0, 0⟩ = .instr (.firecrc 0x202) := by decide
theorem test_decode_crc16 : decode ⟨0x0000000B, 0x205, 0, 0x00040000⟩ = .instr (.crc16 0x205 0x40000) := by
  decide
theorem test_decode_injmsc : decode ⟨0x0000000C, 0x3FFFF, 0, 0⟩ = .instr (.injmsc 0x3FFFF) := by decide
theorem test_decode_injsf : decode ⟨0x0000000D, 0x18, 0, 0⟩ = .instr (.injsf 0x18) := by decide
theorem test_decode_drain : decode ⟨0x0000000E, 0, 0, 0⟩ = .instr .drain := by decide

/-- 95_test_vectors.md §2.9 and §2.3: a reserved opcode, and reserved or unused fields that are not 0. -/
theorem test_decode_rejects :
    [decode ⟨0x0000000F, 0, 0, 0⟩, decode ⟨0x000000FF, 0, 0, 0⟩] = [.illegal, .illegal] ∧
    [decode ⟨0x00000201, 0, 0, 0⟩, decode ⟨0, 0, 0, 1⟩, decode ⟨0x00010000, 0, 0, 0⟩,
      decode ⟨8, 0x40000, 0, 0⟩, decode ⟨8, 0, 0x40000, 0⟩, decode ⟨6, 0, 0, 0x4808⟩,
      decode ⟨6, 0, 0, 0xC008⟩, decode ⟨0x0D, 0x3FFFF, 0, 1⟩, decode ⟨5, 0, 0, 0x100000⟩]
      = List.replicate 9 .badDesc := by decide

/-! ## States for the tests -/

/-- CMDQ holding the commands, with sequence numbers 0, 1, …, and BUF holding the bytes from offset 0. -/
def running (is : List Instr) (bs : List Byte) : State :=
  { State.reset with
    cmd := { State.reset.cmd with queue := is.zipIdx.map fun p => ⟨encode p.1, BitVec.ofNat 16 p.2, [], []⟩ }
    buf := memStore [] 0 bs }

/-- `SELECT 1, 0, 6, A, 3, 8`, generation 1 (95_test_vectors.md §3, P4). -/
def selection8 : Selection :=
  { subchId := 1, startCu := 0, sizeCu := 6, bitrate := 8, profile := .A, levelM1 := 2, valid := true,
    generation := 1 }

/-- A state with that selection active. -/
def selected (s : State) : State := { s with sel := { s.sel with act := selection8 } }

/-- A state with a stop requested. -/
def stopRequested (s : State) : State := { s with ctl := { s.ctl with stopReq := true } }

/-- A state with RUN = 1. -/
def streamed (s : State) : State := { s with ctl := { s.ctl with run := true } }

/-- The state after a step, the state itself if there is none. -/
def after (o : Host.Outcome State Fault Refusal) (s : State) : State :=
  match o with
  | .next t => t
  | .fault _ => s
  | .refused _ => s

/-- The result code and value after running the first command, and the `n` bytes BUF lists from `a` on. -/
def ran (i : Instr) (bs : List Byte) (a n : Nat) : ResultCode × Word × List (Option Byte) :=
  let s := running [i] bs
  let t := after (exec i s) s
  (t.cmd.lastResult, t.cmd.result, (List.range n).map fun k => memLookup t.buf (a + k))

/-- Codeword C of 95_test_vectors.md §2.5. -/
def codewordC : List Byte :=
  (List.range 110).map (BitVec.ofNat 8) ++ [0xA2, 0x8A, 0x69, 0x0C, 0xEA, 0x30, 0xBD, 0xD4, 0xA3, 0x5C]

/-- A block with bytes XORed. -/
def spoiled (r : List Byte) (es : List (Nat × Byte)) : List Byte :=
  es.foldl (fun b e => b.set e.1 (b.getD e.1 0 ^^^ e.2)) r

/-- Super-frame SF1 of 95_test_vectors.md §2.7. -/
def superFrame1 : List Byte :=
  [0x1E, 0x60, 0x20, 0x02, 0xF0] ++ List.replicate 40 0x11 ++ [0x20, 0x02] ++ List.replicate 61 0x22
    ++ [0xE2, 0x21, 0x72, 0x1F, 0xC7, 0x96, 0x03, 0x2A, 0xAA, 0x2A, 0xB6, 0x4C]

/-- The 56 soft bits of P3 of 95_test_vectors.md §3: payload 0xB2. -/
def softB2 : List Byte :=
  (unpackBits [0xF6, 0x24, 0x99, 0xFD, 0xB2, 0x29, 0xF0] 56).map fun b => if b then 0x7F else 0x81

/-! ## One test or two for each command (95_test_vectors.md §2, §3) -/

theorem test_nop : ran .nop [] 0 0 = (.ok, 0, []) := by decide
theorem test_fft_misaligned : ran (.fft false 0 4) [] 0 0 = (.badAddr, 0, []) := by decide
theorem test_fft_outside : ran (.fft true 245768 0) [] 0 0 = (.badAddr, 0, []) := by decide
theorem test_findidx_outside : ran (.findidx 245768) [] 0 0 = (.badAddr, 0, []) := by decide
theorem test_coarse_misaligned : ran (.coarse 12) [] 0 0 = (.badAddr, 0, []) := by decide
theorem test_ddemod_cur_misaligned : ran (.ddemod 4 0 4) [] 0 0 = (.badDesc, 0, []) := by decide
theorem test_ddemod_prev_misaligned : ran (.ddemod 4 0 8) [] 0 0 = (.badAddr, 0, []) := by decide
theorem test_vitdec : ran (.vitdec 0 0x100 8) softB2 0x100 1 = (.ok, 8, [some 0xB2]) := by decide +kernel
theorem test_vitdec_erasures :
    ran (.vitdec 0 0x100 8) (List.replicate 56 0) 0x100 1 = (.ok, 8, [some 0]) := by decide +kernel
theorem test_depunct : (ran (.depunct 0 0x400 8 .A 2) (List.replicate 384 0x81) 0x400 6)
    = (.ok, 792, [some 0x81, some 0x81, some 0, some 0, some 0x81, some 0x81]) := by decide +kernel
theorem test_depunct_bitrate : ran (.depunct 0 0x400 12 .A 2) [] 0 0 = (.badDesc, 0, []) := by decide
theorem test_descr : ran (.descr 0 0x100 32) [0, 0, 0, 0] 0x100 4
    = (.ok, 32, [some 0x07, some 0xBE, some 0x2E, some 0x64]) := by decide +kernel
theorem test_descr_pad : ran (.descr 0 0x100 12) [0xFF, 0xFF] 0x100 2
    = (.ok, 12, [some 0xF8, some 0x40]) := by decide +kernel
theorem test_rsdec_outside : ran (.rsdec 0x3FFC0 0x100) [] 0 0 = (.badAddr, 0, []) := by decide
theorem test_rsdec_corrects : rsDecode (spoiled codewordC [(0, 0xFF), (50, 0x01), (119, 0x80)])
    = some (codewordC, 3) := by decide +kernel
theorem test_sfchk_zero : ran (.sfchk 0 0 0) [] 0 0 = (.badDesc, 0, []) := by decide
theorem test_sfchk_mismatch : (ran (.sfchk 0 0 1)
    ([0, 0] ++ (superFrame1.drop 2).take 108
      ++ [0xB1, 0x5A, 0x7E, 0x7E, 0x41, 0xFA, 0xBA, 0x42, 0x95, 0x2C]) 0 0)
    = (.crcMismatch, 0, []) := by decide +kernel
theorem test_firecrc : ran (.firecrc 0) [1, 2, 3, 4, 5, 6, 7, 8, 9] 0 0 = (.ok, 0x38D4, []) := by
  decide +kernel
theorem test_firecrc_outside : ran (.firecrc 0x3FFF8) [] 0 0 = (.badAddr, 0, []) := by decide
theorem test_crc16 : ran (.crc16 0 9) [0x31, 0x32, 0x33, 0x34, 0x35, 0x36, 0x37, 0x38, 0x39] 0 0
    = (.ok, 0xD64E, []) := by decide +kernel
theorem test_crc16_empty : ran (.crc16 0x3FFFF 0) [] 0 0 = (.ok, 0, []) := by decide
theorem test_injmsc_no_selection : ran (.injmsc 0x3FFFF) [] 0 0 = (.noSubch, 0, []) := by decide
theorem test_injsf : (let s := selected (running [.injsf 0] (List.replicate 24 0xAB))
    let t := after (exec (.injsf 0) s) s
    (t.cmd.lastResult, t.cmd.result, t.q.sfq)) = (.ok, 24, [(1, List.replicate 24 0xAB)]) := by
  decide +kernel
theorem test_injsf_outside : (let s := selected (running [.injsf 0x3FFFF] [])
    let t := after (exec (.injsf 0x3FFFF) s) s
    (t.cmd.lastResult, t.q.sfq)) = (.badAddr, []) := by decide
theorem test_drain : ran .drain [] 0 0 = (.ok, 0, []) := by decide

/-! ## Steps, completion, host accesses (95_test_vectors.md §2.9, §3) -/

/-- The first step after reset runs the fetched descriptor: `NOP`, and a reserved opcode. -/
theorem test_fetch : (after (step (State.reset.withFetchWord 32 0)) State.reset).cmd.done = true ∧
    (after (step (State.reset.withFetchWord 32 0x0F)) State.reset).ev.errInfo = 0x00010000 := by decide

theorem test_decodeTableWord : decodeTableWord 32 0x101 = some (.fft true 0 0) ∧
    decodeTableWord 32 0x0F = none ∧ decodeTableWord 128 0x00000300000020000000000000000005
      = some (.vitdec 0 0x2000 768) := by decide

/-- P5: the second command error; `CMD_STATUS` after it. -/
theorem test_command_error : (let s := running [.vitdec 0 0 0] []
    let t := after (cmdStep s) s
    (t.cmdStatusWord, t.ev.errCause, t.ev.errInfo, t.live.cmdErr, t.ev.irqStatus))
    = (0x00000022, 0x114, 0x00020000, 1, 0x180000) := by decide

/-- §2.9: reads of `ID` and `STATUS`, a reserved CSR offset, a reserved address. -/
theorem test_host_reads :
    [0x000, 0x008, 0x3FC].map (fun a => (State.reset.hostRead State.reset a .w32).hostData)
      = [0xDAB00100, 0, 0] ∧
    (let t := State.reset.hostRead State.reset 0x01000 .w32
     (t.hostData, t.ev.errCause, t.ev.errInfo)) = (0, 0x118, 0x1000) := by decide

/-- §2.9: `SELECT 1, 0, 7, A, 3, 8` and `SELECT 1, 860, 6, A, 3, 8` are rejected, `SELECT 1, 0, 6, A, 3, 8`
is accepted. -/
theorem test_commit :
    ([0x00070001, 0x0006D701, 0x00060001].map fun (w : Word) =>
      let s := { State.reset with sel := { State.reset.sel with stage0 := w, stage1 := 0x4008 } }
      let t := s.hostWrite 0x048 .w32 1
      (t.ev.errInfo, t.csrValue .subchCommit, t.csrValue .subchActive0, t.csrValue .subchActive1))
      = [(3, 0x10000, 0, 0), (4, 0x10000, 0, 0), (0, 1, 0x00060001, 0x4008)] := by decide

/-- P7: FINISH with every queue empty, an IQ push after it, STOP, and a soft reset. -/
theorem test_finish_stop_reset :
    let s1 := (State.reset.hostWrite 0x004 .w32 4).settle
    let s2 := (s1.hostWrite 0x100 .w32 0x12345678).hostWrite 0x004 .w32 2
    (s2.statusWord, s2.ev.irqStatus, s2.ev.errCause, s2.ev.errInfo, s2.live.iqOverflow)
      = (0x1E00, 0xC00000, 0x116, 0x80000004, 4) ∧
    (s2.hostWrite 0x004 .w32 8).statusWord = 0 := by decide

/-- §2.8: fragments of equal soft bits `k`; fragment 15 and fragment 16 (44_deinterleave_msc.md R381). -/
theorem test_deinterleave :
    ((feed 17 State.reset.msc ((List.range 17).map fun k => List.replicate 17 (BitVec.ofNat 8 k))).drop 14)
      = [none, some [0, 8, 4, 12, 2, 10, 6, 14, 1, 9, 5, 13, 3, 11, 7, 15, 0],
         some [1, 9, 5, 13, 3, 11, 7, 15, 2, 10, 6, 14, 4, 12, 8, 16, 1]] := by decide +kernel

/-- §2.1, 40_sync_ofdm.md R232 and R236: check values of the phase and frequency tables. -/
theorem test_ofdm_tables :
    [-768, -767, 1, 2, 768, 0, 769].map prsPhase
      = [some 1, some 3, some 3, some 1, some 1, none, none] ∧
    (freqMap.take 4, freqMap.drop 1532) = ([-513, -14, 329, 692], [641, 652, 606, 197]) := by
  decide +kernel

/-- `bits32` rounds to the nearest binary32, ties to even (40_sync_ofdm.md R203; IEEE-754): 1, −1/2, 1/10, two
ties at 2^24, the least number and half of it, and 2^128. -/
theorem test_bits32 : [bits32 1 1, bits32 (-1) 2, bits32 1 10, bits32 16777217 1, bits32 16777219 1,
      bits32 1 (2 ^ 149), bits32 1 (2 ^ 150), bits32 (2 ^ 128) 1]
    = [0x3F800000, 0xBF000000, 0x3DCCCCCD, 0x4B800000, 0x4B800002, 1, 0, 0x7F800000] := by decide +kernel

/-- A raced byte: a host read may see the byte the in-place `DESCR` leaves, whatever the command itself reads. -/
theorem test_host_read_races : (let s := (running [.descr 0 0 8] [0]).hostWrite 0x40000 .w8 1
    ∃ e rest, s.cmd.queue = e :: rest ∧ e.raced = [(0, 0)] ∧ e.overwritten = [0]) := ⟨_, _, rfl, by decide⟩

/-- A byte on which a host write races with the queued second command, written by the first: the second may
read the byte before the host write, the host's and the first command's, whichever of the last two stays. -/
theorem test_queued_command_races : (let s := (running [.descr 0 0 8, .firecrc 0] [0]).hostWrite 0x40000 .w8 1
    ∃ e f, (s.cmdWrite 0 [2]).cmd.queue = [e, f] ∧ f.raced.map (·.2) = [2, 1, 0] ∧ f.overwritten = []) :=
  ⟨_, _, rfl, by decide⟩

/-! ## Witnesses: for each statement with hypotheses, operands and a state that meet them -/

theorem witness_EncodeOfDecodedDescriptor : decode (encode (.fft true 1 2)) = .instr (.fft true 1 2) := by
  decide

/-- Reserved opcodes at both ends of their range; and known opcodes with a reserved bit of each word at the
ends of its field, and with a nonzero unused field. -/
theorem witness_UndecodableDescriptorCompletes :
    (∀ d ∈ ([⟨0x0F, 0, 0, 0⟩, ⟨0xFF, 0, 0, 0⟩] : List Descriptor), 0x0F ≤ d.w0.toNat % 256) ∧
    (∀ d ∈ ([⟨0x1000E, 0, 0, 0⟩, ⟨0xFFFF0000, 0, 0, 0⟩, ⟨1, 0x40000, 0, 0⟩, ⟨1, 0, 0x40000, 0⟩,
        ⟨1, 0, 0, 1⟩] : List Descriptor),
      d.w0.toNat % 256 < 0x0F ∧
      (65536 ≤ d.w0.toNat ∨ 262144 ≤ d.w1.toNat ∨ 262144 ≤ d.w2.toNat ∨ decode d = .badDesc)) ∧
    (∀ d : Descriptor, ∃ s : State, s.cmd.queue = ⟨d, 0, [], []⟩ :: []) :=
  ⟨by decide, by decide, fun d =>
    ⟨{ State.reset with cmd := { State.reset.cmd with queue := [⟨d, 0, [], []⟩] } }, rfl⟩⟩

theorem witness_StepTakesTheListedTurn : ∃ (s : State) (u : Turn) (ts : List Turn), s.turns = u :: ts :=
  ⟨{ State.reset with turns := [.acq] }, _, _, rfl⟩

theorem witness_StepRunsTheDecodedCommand :
    ∃ (s : State) (ts : List Turn) (e : CmdEntry) (rest : List CmdEntry) (i : Instr),
      s.turns = .cmd :: ts ∧ s.cmd.queue = e :: rest ∧ decode e.desc = .instr i :=
  ⟨State.reset.withFetchWord 32 0x0E, [], _, [], .drain, rfl, rfl, by decide⟩

/-- A command at the head of CMDQ that may execute: regions that reach the end of BUF, a PARAM at the least
and at the largest value. For NopCompletesOk, FftWritesTheTransform, FindidxAndCoarseReturnTheirEstimates,
DdemodWritesTheSoftBits, VitdecWritesTheDecodedBits, DepunctWritesTheMotherSoftBits,
DescrWritesTheDescrambledBits, RsdecWritesTheCorrectedBlock, SfchkChecksTheWindow and
CrcCommandsReturnTheirCrcs. -/
theorem witness_executable : ∀ i ∈ ([.nop, .fft false 245760 0, .fft true 0 245760, .findidx 245760, .coarse 245760,
      .ddemod 245760 259072 0, .vitdec 0 0 1, .vitdec 0 0 65530, .depunct 0 0x400 8 .A 0,
      .depunct 0 0x400 32 .B 3, .descr 262143 0 1, .descr 0 0 0x1FFFFF, .rsdec 262024 0, .sfchk 0 0 1,
      .sfchk 0 0 255, .firecrc 262135, .crc16 0 0, .crc16 0 262144, .drain] : List Instr),
    (∃ e rest, (running [i] []).cmd.queue = e :: rest) ∧ Executable i := by
  intro i hi
  refine ⟨⟨_, _, rfl⟩, ?_⟩
  revert i
  decide

theorem witness_InjectingCommandsPush :
    (let s := selected (running [.injmsc 0] [])
     (∃ e rest, s.cmd.queue = e :: rest) ∧ s.ctl.stopReq = false ∧ InjectsWith s 0 softLength selection8 ∧
      s.q.mscq.length < Config.mscqDepth) ∧
    (let s := selected (running [.injsf 262120] [])
     (∃ e rest, s.cmd.queue = e :: rest) ∧ s.ctl.stopReq = false ∧
      InjectsWith s 262120 byteLength selection8 ∧ s.q.sfq.length < Config.sfqDepth) :=
  ⟨⟨⟨_, _, rfl⟩, rfl, .inr (by decide), Nat.succ_pos _⟩, ⟨⟨_, _, rfl⟩, rfl, .inr (by decide), Nat.succ_pos _⟩⟩

/-- DRAIN with nothing counted, with one entry counted after a stop, and at the head while another agent
steps. -/
theorem witness_DrainCompletesWhenItsEntriesAreDone :
    (∃ s : State, s.cmd.queue ≠ [] ∧ s.cmd.drainM = 0 ∧ s.cmd.drainS = 0) ∧
    (∃ s : State, s.cmd.queue ≠ [] ∧ s.cmd.drainS ≠ 0 ∧ s.ctl.stopReq = true) ∧
    (∃ s t : State, step s = .next t ∧ DrainAtHead s.cmd.queue ∧
      s.cmd.queue.length ≤ t.cmd.queue.length ∧ s.nextTurn ≠ .msc ∧ s.nextTurn ≠ .sfa ∧ DrainCounted s) :=
  ⟨⟨running [.drain] [], by decide⟩,
   ⟨stopRequested { running [.drain] [] with cmd := { (running [.drain] []).cmd with drainS := 1 } },
    by decide⟩,
   ⟨{ running [.drain] [] with turns := [.demod] }, _, rfl, ⟨_, _, rfl, by decide⟩, by decide, by decide,
    by decide, fun _ => by decide⟩⟩

theorem witness_MalformedParamCompletesBadDesc : ∀ i ∈ ([.ddemod 0 0 4, .vitdec 0 0 0, .depunct 0 0 4 .A 0,
      .depunct 0 0 8 .B 0, .descr 0 0 0, .sfchk 0 0 0, .crc16 0 262145] : List Instr),
    (running [i] []).cmd.queue ≠ [] ∧ i.wellFormed = false := by decide

/-- Each operand region one step beyond its last legal offset, or misaligned by one. -/
theorem witness_RegionOutsideBufCompletesBadAddr : ∀ i ∈ ([.fft false 245761 0, .fft false 0 1,
      .findidx 245768, .coarse 1, .ddemod 0 259073 0, .ddemod 0 0 245768, .vitdec 0 0 65531,
      .depunct 261377 0 8 .A 0, .depunct 0 261353 8 .A 0, .descr 262143 0 9, .rsdec 262025 0,
      .sfchk 0 262025 1, .firecrc 262136, .crc16 1 262144] : List Instr),
    (running [i] []).cmd.queue ≠ [] ∧ i.wellFormed = true ∧
      ∃ r ∈ regions i, ¬ InBuf r.1 r.2.1 r.2.2 := by decide

theorem witness_InjectingCommandsEndWithoutPushing :
    (let s := running [.injmsc 0] []
     s.cmd.queue ≠ [] ∧ s.cmd.held = none ∧ s.sel.act.valid = false) ∧
    (let s := selected (running [.injmsc 261761] [])
     s.cmd.queue ≠ [] ∧ s.cmd.held = none ∧ s.sel.act.valid = true ∧
      ¬ InBuf (261761 : BufOffset).toNat (softLength s.sel.act) 1) ∧
    (let s := selected (running [.injsf 262121] [])
     s.cmd.queue ≠ [] ∧ s.cmd.held = none ∧ s.sel.act.valid = true ∧
      ¬ InBuf (262121 : BufOffset).toNat (byteLength s.sel.act) 1) ∧
    (let s := stopRequested (running [.injmsc 0] [])
     let s := { s with cmd := { s.cmd with held := some selection8 } }
     s.cmd.queue ≠ [] ∧ s.ctl.stopReq = true ∧ InjectsWith s 0 softLength selection8) ∧
    (let s := stopRequested (selected (running [.injsf 0] []))
     s.cmd.queue ≠ [] ∧ s.ctl.stopReq = true ∧ InjectsWith s 0 byteLength selection8) :=
  ⟨by decide, by decide, by decide, ⟨by decide, rfl, .inl rfl⟩, ⟨by decide, rfl, .inr (by decide)⟩⟩

/-- A full MSCQ, a full SFQ, and a DRAIN with one entry counted. -/
theorem witness_WaitingCommandsStayAtTheHead :
    (let s := selected (running [.injmsc 0] [])
     let s := { s with q := { s.q with mscq := List.replicate Config.mscqDepth (0, []) } }
     s.cmd.queue ≠ [] ∧ s.ctl.stopReq = false ∧ InjectsWith s 0 softLength selection8 ∧
      Config.mscqDepth ≤ s.q.mscq.length) ∧
    (let s := selected (running [.injsf 0] [])
     let s := { s with q := { s.q with sfq := List.replicate Config.sfqDepth (0, []) } }
     s.cmd.queue ≠ [] ∧ s.ctl.stopReq = false ∧ InjectsWith s 0 byteLength selection8 ∧
      Config.sfqDepth ≤ s.q.sfq.length) ∧
    (let s := running [.drain] []
     let s := { s with cmd := { s.cmd with drainM := 1 } }
     s.cmd.queue ≠ [] ∧ s.ctl.stopReq = false ∧ s.cmd.drainM ≠ 0) :=
  ⟨⟨by decide, rfl, .inr (by decide), by simp⟩, ⟨by decide, rfl, .inr (by decide), by simp⟩, by decide⟩

/-- An executing command with a raced byte, the host write that races with it, and both ends of BUF. -/
theorem witness_RacedByteReadsOldOrNew :
    (let s := (running [.firecrc 0, .nop] []).hostWrite 0x40000 .w8 7
     ∃ e rest, s.cmd.queue = e :: rest ∧ e.raced ≠ [] ∧ e.overwritten = [0]) ∧
    IsBufAccess (0x7FFFF : HostAddr).toNat .w8 262143 ∧ IsBufAccess (0x40000 : HostAddr).toNat .w32 0 :=
  ⟨⟨_, _, rfl, List.cons_ne_nil _ _, rfl⟩, by decide⟩

theorem witness_HostBufWriteChangesOnlyItsBytes : IsBufAccess (0x7FFFC : HostAddr).toNat .w32 262140 ∧
    IsBufAccess (0x40002 : HostAddr).toNat .w16 2 := by decide

theorem witness_HostBufReadIsLittleEndian : IsBufAccess (0x7FFFE : HostAddr).toNat .w16 262142 ∧
    IsBufAccess (0x40000 : HostAddr).toNat .w8 0 ∧ State.reset.cmd.queue = [] := by decide

/-- Each clause at its boundary values. -/
theorem witness_BadHostAccessIsABusError :
    ∀ p ∈ ([(0x1000, .w32), (0x3FFFC, .w32), (0x80000, .w32), (0xFFFFF, .w8), (0x000, .w16), (0x001, .w32),
      (0xFFF, .w32), (0x40001, .w16), (0x7FFFE, .w32)] : List (Nat × Width)), IsBusError p.1 p.2 := by
  decide

/-- A push that fits, one after a finish, and one that does not fit. -/
theorem witness_IqPushIsWholeOrDropped :
    (State.reset.ctl.finishReq = false ∧ State.reset.q.iqf.length + 1 ≤ Config.iqFifoBytes) ∧
    (∃ s : State, s.ctl.finishReq = true) ∧
    (∃ s : State, s.ctl.finishReq = false ∧ Config.iqFifoBytes < s.q.iqf.length + 1) :=
  ⟨⟨rfl, Nat.le_add_left 1 _⟩, ⟨State.reset.finish, rfl⟩,
   ⟨{ State.reset with q := { State.reset.q with iqf := List.replicate Config.iqFifoBytes 0 } }, rfl, by simp⟩⟩

/-- An empty CMDQ with a staged DRAIN, three entries, and a full CMDQ. -/
theorem witness_CmdGoEnqueuesOrDrops :
    (running [] []).cmd.queue = [] ∧ DrainAtHead (running [.drain] []).cmd.queue ∧
    (running [.nop, .nop, .nop] []).cmd.queue.length < 4 ∧
    4 ≤ (running [.nop, .nop, .nop, .nop] []).cmd.queue.length :=
  ⟨rfl, ⟨_, _, rfl, by decide⟩, by decide, by decide⟩

/-- Staged fields that pass every check, and staged fields that fail check 4 alone. -/
theorem witness_CommitSwapsOrRejects :
    (let s := { State.reset with sel := { State.reset.sel with stage0 := 0x0006D681, stage1 := 0x4008 } }
     ∀ n, ¬ FailsCheck (staged s) n) ∧
    (let s := { State.reset with sel := { State.reset.sel with stage0 := 0x0006D6C1, stage1 := 0x4008 } }
     FailsCheck (staged s) 4) := by
  refine ⟨fun n h => ?_, .inr (.inr (by decide))⟩
  rcases h with ⟨-, h⟩ | ⟨-, h⟩ | ⟨-, h⟩
  · exact h ⟨1, by decide⟩
  · exact absurd h (by decide)
  · exact absurd h (by decide)

theorem witness_SnapshotChangesOnlyBySnapshotOrReset :
    HostWrites { State.reset with turns := [.host (.write 0x0FC .w32 1)] } 0x0FC 1 ∧
    (∃ t, step { State.reset with turns := [.host (.write 0x0FC .w32 1)] } = .next t) :=
  ⟨rfl, ⟨_, rfl⟩⟩

theorem witness_EventsAndTheInterruptLine : (.busErr, 24, true) ∈ eventTable := by decide

/-- A FIC record at its last word and before it; reserved offsets beside listed ones and at the end of the CSR
space; and read-only and reserved offsets. -/
theorem witness_CsrReadsAndWrites :
    (0x000, 0xDAB00100) ∈ csrReads State.reset ∧
    (∃ s : State, s.q.ficq = [5] :: []) ∧ (∃ s : State, s.q.ficq = (5 :: 6 :: []) :: []) ∧
    ([0x034, 0x0C8, 0x10C, 0x220, 0xFFC] : List HostAddr).all (fun a => a.toNat < 0x1000 ∧ a.toNat % 4 = 0 ∧
      a ∉ listedOffsets) = true ∧
    ([0x000, 0x008, 0x080, 0x110, 0x21C, 0xFFC] : List HostAddr).all (· ∉ writable) = true :=
  ⟨by unfold csrReads; exact List.mem_cons_self,
   ⟨{ State.reset with q := { State.reset.q with ficq := [[5]] } }, rfl⟩,
   ⟨{ State.reset with q := { State.reset.q with ficq := [[5, 6]] } }, rfl⟩, by decide, by decide⟩

/-- A write with every field of CTRL set. -/
theorem witness_CtrlWritesAndResets : (0x1F : Word).getLsbD 3 = true ∧ (0x1F : Word).getLsbD 1 = true := by
  decide

/-- A step of a stopped block, one that stops it, and one that commits a selection. -/
theorem witness_StopAndSelectionChangeOnlyByTheirWrites :
    (∃ s t : State, step s = .next t ∧ s.ctl.stopReq = true) ∧
    (∃ s t : State, step s = .next t ∧ s.ctl.stopReq = false ∧ t.ctl.stopReq = true) ∧
    (∃ s t : State, step s = .next t ∧ t.sel.act ≠ s.sel.act) :=
  ⟨⟨{ stopRequested State.reset with turns := [.acq] }, _, rfl, rfl⟩,
   ⟨{ State.reset with turns := [.host (.write 0x004 .w32 2)] }, _, rfl, rfl, by decide⟩,
   ⟨{ State.reset with
      sel := { State.reset.sel with stage0 := 0x00060001, stage1 := 0x4008 }
      turns := [.host (.write 0x048 .w32 1)] }, _, rfl, by decide⟩⟩

/-- RUN = 0, a stopped block, and a finished one. -/
theorem witness_DisabledAgentsChangeNothing :
    ¬ MayStream State.reset ∧ ¬ MayStream (streamed (stopRequested State.reset)) ∧
    ¬ MayStream (streamed (State.reset.finish.settle)) := by decide

/-- A step that finishes the block, and a step of a finished block; a turn that ends it, and one that does
not. -/
theorem witness_FinishedFollowsItsCondition :
    (∃ s t : State, step s = .next t ∧ s.ctl.finished = false ∧ t.ctl.finished = true) ∧
    (∃ s t : State, step s = .next t ∧ s.ctl.finished = true ∧ t.ctl.finishReq = true ∧
      t.ctl.stopReq = false ∧ t.q.iqf.length < 2 ∧ t.q.sampq = [] ∧ t.q.symq = [] ∧ t.q.mscq = [] ∧
      t.q.sfq = []) ∧ Finishes State.reset.finish ∧ ¬ Finishes State.reset.finish.settle :=
  ⟨⟨{ State.reset with turns := [.host (.write 0x004 .w32 4)] }, _, rfl, rfl, by decide⟩,
   ⟨{ State.reset.finish.settle with turns := [.acq] }, _, rfl, by decide⟩, by decide, by decide⟩

/-- The invariants hold at reset, and a step follows. -/
theorem witness_StepKeepsMemoryCanonical :
    ∃ s t : State, s.MemoryCanonical ∧ step s = .next t :=
  ⟨{ State.reset with turns := [.host (.write 0x7FFFF .w8 1)] }, _, reset_memWf, rfl⟩

theorem witness_StepKeepsQueuesBounded : ∃ s t : State, s.QueuesBounded ∧ step s = .next t :=
  ⟨{ State.reset with turns := [.host (.write 0x104 .w32 1)] }, _,
   ⟨Nat.zero_le _, Nat.zero_le _, Nat.zero_le _, Nat.zero_le _, Nat.zero_le _, Nat.zero_le _,
    Nat.zero_le _, Nat.zero_le _⟩, rfl⟩

theorem witness_StepKeepsSelectionsSound : ∃ s t : State, s.SelectionsSound ∧ s.sel.act.valid = true ∧
    step s = .next t :=
  ⟨{ selected State.reset with turns := [.cmd] }, _,
   ⟨fun _ => ⟨by decide, by decide, by decide⟩, fun _ h => by cases h⟩, rfl, rfl⟩

theorem witness_StepKeepsCountsInRange : ∃ s t : State, CountsInRange s ∧ step s = .next t :=
  ⟨{ State.reset with turns := [.sync] }, _,
   ⟨⟨by decide, by decide, by decide, by decide, by decide, by decide, by decide, by decide⟩,
    ⟨by decide, by decide, by decide, by decide, by decide, by decide⟩⟩, rfl⟩

theorem witness_ModesAfterReset : (running [.injmsc 0] []).sel.act.valid = false ∧
    (running [.injmsc 0] []).cmd.held = none ∧ (running [.injmsc 0] []).cmd.queue ≠ [] := by decide

/-- Two bytes and an empty SAMPQ; and an ACQ that may not step: one byte, and a full SAMPQ. -/
theorem witness_AcqConvertsOneBytePair :
    (∃ s : State, MayStream s ∧ s.q.iqf = 0 :: 255 :: [] ∧ s.q.sampq.length < Config.sampqDepth) ∧
    (∃ s : State, MayStream s ∧ s.q.iqf.length < 2) ∧
    (∃ s : State, MayStream s ∧ Config.sampqDepth ≤ s.q.sampq.length) :=
  ⟨⟨streamed { State.reset with q := { State.reset.q with iqf := [0, 255] } }, by decide, rfl,
      Nat.succ_pos _⟩,
   ⟨streamed State.reset, by decide, by decide⟩,
   ⟨streamed { State.reset with q := { State.reset.q with
      sampq := List.replicate Config.sampqDepth cxZero } }, by decide, by simp [streamed]⟩⟩

/-- Every phase that detects the null symbol, the counts at the ends of their ranges. -/
theorem witness_SyncDetectsTheNullSymbol :
    let s := fun (p : Phase) (f c : Nat) (w : List (Cx Sys2Proof.Num)) => streamed
      { State.reset with sync := { SyncState.reset with phase := p, fill := f, c := c, W := w } }
    MayStream (s .idle 0 0 []) ∧ MayStream (s .fill 49 0 []) ∧ MayStream (s .nullSearch 0 196608 []) ∧
    MayStream (s .nullExit 0 196608 []) ∧ MayStream (s .capture 0 0 [cxZero]) ∧
    (s .capture 0 0 [cxZero]).sync.W.length < 2048 := by decide

/-- A full window, both parts of a symbol, and a symbol that ends, with room in SYMQ and a sample, and without. -/
theorem witness_SyncEmitsSymbolsAndCorrects :
    let s := fun (k : SyncState) (x : List (Cx Sys2Proof.Num)) (y : List SymEntry) => streamed
      { State.reset with sync := k, q := { State.reset.q with sampq := x, symq := y } }
    let symbols := fun (p : Part) (n g : Nat) => { SyncState.reset with
      phase := .symbols, l := 76, part := p, S := List.replicate n cxZero, G := List.replicate g cxZero }
    let full := { SyncState.reset with phase := .capture, W := List.replicate 2048 cxZero }
    (∀ k x y, MayStream (s k x y)) ∧ (s full [] []).sync.W.length = 2048 ∧
    (s (symbols .useful 2047 0) [cxZero] []).sync.S.length + 1 = 2048 ∧
    (s (symbols .useful 2047 0) [cxZero] []).q.symq.length < Config.symqDepth ∧
    (s (symbols .useful 2047 0) [cxZero] []).q.sampq ≠ [] ∧
    Config.symqDepth ≤ (s full [] (List.replicate Config.symqDepth (.abort 0))).q.symq.length ∧
    (s (symbols .guard 0 503) [] []).sync.part = .guard ∧
    (s (symbols .useful 0 0) [] []).sync.S.length + 1 ≠ 2048 :=
  ⟨fun _ _ _ => ⟨rfl, rfl, rfl⟩, List.length_replicate, congrArg (· + 1) List.length_replicate,
    Nat.succ_pos _, List.cons_ne_nil _ _, List.length_replicate.ge, rfl, by decide⟩

/-- The step enabled in CAPTURE and in SYMBOLS, not enabled in IDLE, and a sample that arms it again. -/
theorem witness_NosampleFiresOncePerSample :
    let s := fun (p : Phase) => streamed { State.reset with
      sync := { SyncState.reset with phase := p }, q := { State.reset.q with iqf := [1] } }
    (∀ p ∈ [Phase.capture, .symbols], MayStream (s p) ∧ (s p).sync.phase ≠ .idle ∧ (s p).q.sampq = [] ∧
      (s p).q.iqf.length < 2 ∧ (s p).sync.nsArmed = true ∧ (s p).ctl.finishReq = false ∧
      ¬ ((s p).sync.phase = .symbols ∧ Config.symqDepth ≤ (s p).q.symq.length)) ∧
    (s .idle).sync.phase = .idle ∧
    (∃ s t : State, step s = .next t ∧ s.sync.nsArmed = false ∧ t.sync.nsArmed = true) := by
  have h : ¬ Config.symqDepth ≤ 0 := Nat.not_succ_le_zero _
  refine ⟨fun p hp => ?_, rfl, ⟨{ streamed { State.reset with
      sync := { SyncState.reset with phase := .fill, nsArmed := false }
      q := { State.reset.q with sampq := [cxZero] } } with turns := [.sync] }, _, rfl, rfl, ?_⟩⟩
  · have hd : ∀ p ∈ [Phase.capture, .symbols], p ≠ .idle := by decide
    exact ⟨⟨rfl, rfl, rfl⟩, hd p hp, rfl, by simp [streamed], rfl, rfl, fun hs => h hs.2⟩
  · decide

/-- Each kind of entry: an ABORT marker; symbol 1; one without a reference, and one of another frame; FIC
symbols 2 and 4; a CIF symbol, the 18th with no selection, with one and room in MSCQ, and with MSCQ full. -/
theorem witness_DemodStepTakesOneEntry :
    let s := fun (e : SymEntry) (n : Nat) (q : List (BitVec 16 × List SoftBit)) => streamed
      { State.reset with
        demod := { State.reset.demod with zvalid := true, cif := List.replicate n [] }
        q := { State.reset.q with symq := [e], mscq := q } }
    (MayStream (s (.abort 0) 0 []) ∧ (s (.abort 0) 0 []).q.symq = .abort 0 :: []) ∧
    MayStream State.reset.finish.settle = False ∧ State.reset.demod.zvalid = false ∧
    (1 : Word) ≠ (s (.symbol 1 2 []) 0 []).demod.dfseq ∧
    (∀ l ∈ [1, 2, 4, 5], let t := s (.symbol 0 l []) 0 []
      MayStream t ∧ t.q.symq = .symbol 0 l [] :: [] ∧ t.demod.zvalid = true ∧ 0 = t.demod.dfseq ∧
        t.demod.cif.length + 1 ≠ 18) ∧
    (let t := selected (s (.symbol 0 22 []) 17 [])
     MayStream t ∧ t.q.symq = .symbol 0 22 [] :: [] ∧ t.demod.zvalid = true ∧ 0 = t.demod.dfseq ∧
      t.demod.cif.length + 1 = 18 ∧ t.sel.act.valid = true ∧ t.q.mscq.length < Config.mscqDepth) ∧
    (s (.symbol 0 22 []) 17 []).sel.act.valid = false ∧
    Config.mscqDepth ≤ (selected (s (.symbol 0 22 []) 17 (List.replicate Config.mscqDepth (0, [])))).q.mscq.length := by
  refine ⟨by decide, by decide, rfl, by decide, by decide, ⟨by decide, rfl, rfl, rfl, rfl, rfl, Nat.succ_pos _⟩,
    rfl, ?_⟩
  simp [selected, streamed]

/-- A stale fragment, one while the de-interleaver fills, and a later one, with room in SFQ; and a full SFQ. -/
theorem witness_MscStepTakesOneFragment :
    let s := fun (g : BitVec 16) (n : Nat) (q : List (BitVec 16 × List Byte)) => streamed (selected
      { State.reset with
        msc := { State.reset.msc with mscGen := 1, tiFill := n }
        q := { State.reset.q with mscq := [(g, [])], sfq := q } })
    (MayStream (s 0 0 []) ∧ (s 0 0 []).q.mscq = (0, []) :: [] ∧ (0 : BitVec 16) ≠ (s 0 0 []).sel.act.generation ∧
      (s 0 0 []).q.sfq.length < Config.sfqDepth) ∧
    ((s 1 14 []).sel.act.valid = true ∧ 1 = (s 1 14 []).sel.act.generation ∧ (s 1 14 []).msc.tiFill < 15) ∧
    (15 ≤ (s 1 15 []).msc.tiFill ∧ (s 1 15 []).q.sfq.length < Config.sfqDepth) ∧
    Config.sfqDepth ≤ (s 0 0 (List.replicate Config.sfqDepth (0, []))).q.sfq.length := by
  refine ⟨⟨by decide, rfl, by decide, Nat.succ_pos _⟩, by decide, ⟨by decide, Nat.succ_pos _⟩, ?_⟩
  simp [selected, streamed]

theorem witness_DeinterleaverDelaysByThePermutation :
    State.reset.msc.tiFill = 0 ∧ State.reset.msc.tiW = 0 ∧ State.reset.msc.ti.length = 16 ∧
    14 < (List.replicate 16 ([] : List SoftBit)).length ∧
    15 < (List.replicate 16 ([] : List SoftBit)).length := by decide

/-- A stale payload and one that does not fill the store; and windows of 95_test_vectors.md §2.7, five payloads
of 24 bytes: SF1, which passes; f0 f1 f2 f3 Z with Z zero, an uncorrectable codeword; and SF1 with seven bytes
spoiled behind its header, an uncorrectable codeword whose fire code matches. -/
theorem witness_SfaStepTakesOnePayload :
    let part := fun (w : List Byte) (i : Nat) => (w.drop (24 * i)).take 24
    let s := fun (w : List Byte) (n : Nat) (p : SfPhase) => streamed (selected { State.reset with
      q := { State.reset.q with sfq := [(1, part w 4)] }
      sfa := { State.reset.sfa with phase := p, store := (List.range n).map (part w), sfaGen := 1 } })
    let r := fun (w : List Byte) => rsWindow (((List.range 4).map (part w)) ++ [part w 4]).flatten 1
    let fire := fun (w : List Byte) =>
      fireCode (((r w).bytes.drop 2).take 9) == byteAt (r w).bytes 0 ++ byteAt (r w).bytes 1
    let zero := superFrame1.take 96 ++ List.replicate 24 0
    let bad := spoiled superFrame1 ((List.range 7).map fun i => (20 + i, 0xFF))
    (∀ p ∈ [SfPhase.accumulating, .synced], let t := s superFrame1 4 p
      MayStream t ∧ t.q.sfq = (1, part superFrame1 4) :: [] ∧ t.sel.act.valid = true ∧
      1 = t.sel.act.generation ∧ 1 = t.sfa.sfaGen ∧ t.sfa.store.length = 4 ∧ t.sel.act.bitrate.toNat / 8 = 1) ∧
    (s superFrame1 3 .synced).sfa.store.length ≠ 4 ∧
    (fire superFrame1 = true ∧ (r superFrame1).nunc = 0) ∧
    0 < (r zero).nunc ∧ (fire bad = true ∧ 0 < (r bad).nunc) := by
  decide +kernel

/-- The audio unit W[5 … 46] of SF1, whose CRC matches; one byte less, whose CRC does not; a malformed one; and
room in AUQ, and none. -/
theorem witness_AudioUnitsAreEmittedOrDropped :
    (crc16 ((superFrame1.drop 5).take 40) = byteAt superFrame1 45 ++ byteAt superFrame1 46) ∧
    (crc16 ((superFrame1.drop 5).take 39) ≠ byteAt superFrame1 44 ++ byteAt superFrame1 45) ∧
    ¬ (5 < 5 ∨ 110 * 1 < 47 ∨ 47 < 5 + 3) ∧ (5 < 5 ∨ 110 * 1 < 111 ∨ 111 < 5 + 3) ∧
    crc16 [0] = byteAt [0, 0x1E, 0x0F] 1 ++ byteAt [0, 0x1E, 0x0F] 2 ∧
    4 * State.reset.q.auq.length + 4 * (0 :: packedWords [0]).length ≤ Config.auqBytes ∧
    Config.auqBytes < 4 * (List.replicate Config.auqBytes (0 : Word)).length + 4 * 1 := by
  refine ⟨by decide +kernel, by decide +kernel, by decide, by decide, by decide +kernel, ?_, ?_⟩
  · exact Nat.le_add_left 8 _
  · rw [List.length_replicate]
    omega

theorem witness_ViterbiFindsABestPayload :
    softB2.length = 4 * (8 + 6) ∧ (List.replicate 8 true).length = 8 := by
  decide

theorem witness_EepMaskFitsItsRow : bitrateLegal .A 8 = true ∧ bitrateLegal .B 32 = true ∧
    bitrateLegal .A 2040 = true := by decide

theorem witness_ReedSolomonNeverClaimsFalsely : isCodeword codewordC = true ∧
    rsDecode (spoiled codewordC [(0, 0xFF), (50, 0x01), (119, 0x80)]) = some (codewordC, 3) :=
  ⟨by decide +kernel, test_rsdec_corrects⟩

/-- Five spoiled bytes, the first and the last among them. -/
theorem witness_ReedSolomonCorrectsFiveErrors :
    let r := spoiled codewordC [(0, 0xFF), (1, 0x01), (50, 0x10), (109, 0x33), (119, 0x80)]
    r.length = 120 ∧ codewordC.length = 120 ∧ isCodeword codewordC = true ∧ hammingDistance r codewordC = 5 ∧
      rsDecode r = some (codewordC, 5) := by
  decide +kernel

theorem witness_ExactTransformsAreTheSpecs : 0 < [(⟨1, 0⟩ : Cx ℝ)].length := by decide

end Sys2Proof.Tests
end

