-- ==== Sys2Proof/Proofs/Transforms.lean ====
section
/-! SUPPORT. The transforms of 00_scope.md R19 in exact arithmetic: each entry is the spec's sum, and on vectors
indexed by `ZMod N` they are Mathlib's discrete Fourier transform `ZMod.dft` and its inverse. -/

namespace Sys2Proof.Machine

/-! ## Exact complex numbers -/

@[simp] theorem toComplex_ofComplex (z : ℂ) : toComplex (ofComplex z) = z := rfl

theorem toComplex_injective : Function.Injective toComplex := fun _ _ h =>
  congrArg ofComplex h

/-- Dividing both parts by a real number, as `ifft` does last, divides the complex number. -/
theorem toComplex_div_ofReal (z : Cx ℝ) (r : ℝ) : toComplex ⟨z.re / r, z.im / r⟩ = toComplex z / r :=
  Complex.ext (Complex.div_ofReal_re (toComplex z) r).symm (Complex.div_ofReal_im (toComplex z) r).symm

theorem ofInt_exactArith (special : Word → ℝ) (i : ℤ) : ofInt (exactArith special) i = i := by
  simp [ofInt, exactArith]

theorem rootOfUnity_eq_stdAddChar (N : ℕ) [NeZero N] (p : ℤ) :
    rootOfUnity p N = ZMod.stdAddChar (p : ZMod N) := by
  rw [ZMod.stdAddChar_coe, rootOfUnity, mul_div_assoc]

/-! ## Each entry is a sum over the vector -/

/-- `Σ x[n]·e^(j2π·p(n)/N)`, the sum both transforms take with `p(n) = ∓nk`. -/
noncomputable def rootSum (x : List (Cx ℝ)) (p : ℕ → ℤ) : ℂ :=
  ∑ n : Fin x.length, toComplex x[n] * rootOfUnity (p n) x.length

theorem toComplex_dot_roots (special : Word → ℝ) (x : List (Cx ℝ)) (p : ℕ → ℤ) :
    toComplex ((exactArith special).dot
      (x.zipIdx.map fun q => (q.1, (exactArith special).root (p q.2) x.length))) = rootSum x p := by
  have entries : (x.zipIdx.map fun q => toComplex q.1 * rootOfUnity (p q.2) x.length) =
      List.ofFn fun n : Fin x.length => toComplex x[n] * rootOfUnity (p n) x.length :=
    List.ext_getElem (by simp) (by simp)
  calc _ = (x.zipIdx.map fun q => toComplex q.1 * rootOfUnity (p q.2) x.length).sum := by
        simp [exactArith, Function.comp_def]
    _ = rootSum x p := by rw [entries, List.sum_ofFn, rootSum]

theorem toComplex_getElem_fft (special : Word → ℝ) (x : List (Cx ℝ)) (k : ℕ)
    (hk : k < (fft (exactArith special) x).length) :
    toComplex (fft (exactArith special) x)[k] = rootSum x fun n => n * (-k) := by
  simp only [fft, List.getElem_map, List.getElem_range]
  rw [toComplex_dot_roots special x fun n => -((n * k : ℕ) : ℤ)]
  simp

theorem toComplex_getElem_ifft (special : Word → ℝ) (x : List (Cx ℝ)) (n : ℕ)
    (hn : n < (ifft (exactArith special) x).length) :
    toComplex (ifft (exactArith special) x)[n] = (rootSum x fun k => k * n) / x.length := by
  simp only [ifft, List.getElem_map, List.getElem_range, ofInt_exactArith]
  refine (toComplex_div_ofReal _ _).trans ?_
  rw [toComplex_dot_roots special x fun k => ((k * n : ℕ) : ℤ)]
  simp

/-! ## The transforms are `ZMod.dft` and its inverse -/

/-- The vector as a function on the indices modulo its length. -/
noncomputable def periodic (N : ℕ) (x : List (Cx ℝ)) : ZMod N → ℂ :=
  fun i => toComplex (x.getD i.val ⟨0, 0⟩)

theorem periodic_natCast {N : ℕ} {x : List (Cx ℝ)} (hx : x.length = N) {i : ℕ} (hi : i < x.length) :
    periodic N x (i : ZMod N) = toComplex x[i] := by
  rw [periodic, ZMod.val_cast_of_lt (hx ▸ hi), List.getD_eq_getElem _ _ hi]

/-- A vector of known length is determined by its periodic function. -/
theorem periodic_inj {N : ℕ} {x y : List (Cx ℝ)} (hx : x.length = N) (hy : y.length = N)
    (h : periodic N x = periodic N y) : x = y :=
  List.ext_getElem (hx.trans hy.symm) fun i hxi hyi => toComplex_injective <| by
    rw [← periodic_natCast hx hxi, h, periodic_natCast hy hyi]

variable {N : ℕ} [NeZero N] {x : List (Cx ℝ)}

/-- Two functions on `ZMod N` agree when they agree on the natural numbers below `N`. -/
theorem zmod_funext {f g : ZMod N → ℂ} (h : ∀ i : ℕ, i < N → f i = g i) : f = g :=
  funext fun i => by simpa using h i.val i.val_lt

theorem finEquiv_apply (n : Fin N) : ZMod.finEquiv N n = ((n : ℕ) : ZMod N) := by
  cases N with
  | zero => exact n.elim0
  | succ m => exact (Fin.cast_val_eq_self n).symm

/-- The sum over the vector's entries is the sum over `ZMod N`, reindexed by `ZMod.finEquiv`. -/
theorem rootSum_eq_sum_stdAddChar (hx : x.length = N) (s : ℤ) :
    rootSum x (fun n => n * s) = ∑ j : ZMod N, ZMod.stdAddChar (j * (s : ZMod N)) • periodic N x j := by
  subst hx
  refine Fintype.sum_equiv (ZMod.finEquiv x.length).toEquiv _ _ fun n => ?_
  rw [RingEquiv.toEquiv_eq_coe, RingEquiv.coe_toEquiv, finEquiv_apply, periodic_natCast rfl n.isLt,
    rootOfUnity_eq_stdAddChar, smul_eq_mul, mul_comm]
  simp

theorem periodic_fft (special : Word → ℝ) (hx : x.length = N) :
    periodic N (fft (exactArith special) x) = ZMod.dft (periodic N x) := by
  refine zmod_funext fun k hk => ?_
  rw [periodic_natCast (by simpa using hx) (by simpa [hx] using hk), toComplex_getElem_fft,
    rootSum_eq_sum_stdAddChar hx, ZMod.dft_apply]
  simp

theorem periodic_ifft (special : Word → ℝ) (hx : x.length = N) :
    periodic N (ifft (exactArith special) x) = ZMod.dft.symm (periodic N x) := by
  refine zmod_funext fun n hn => ?_
  rw [periodic_natCast (by simpa using hx) (by simpa [hx] using hn), toComplex_getElem_ifft,
    rootSum_eq_sum_stdAddChar hx, ZMod.invDFT_apply, hx, smul_eq_mul, div_eq_inv_mul]
  simp

/-! ## Each transform undoes the other, the empty vector apart by `ZMod.dft` -/

theorem ifft_fft_exactArith (special : Word → ℝ) (x : List (Cx ℝ)) :
    ifft (exactArith special) (fft (exactArith special) x) = x := by
  rcases Nat.eq_zero_or_pos x.length with h0 | hpos
  · simp [List.eq_nil_of_length_eq_zero h0, fft, ifft]
  · have : NeZero x.length := ⟨hpos.ne'⟩
    refine periodic_inj (N := x.length) (by simp) rfl ?_
    rw [periodic_ifft special (fft_length _ _), periodic_fft special rfl, LinearEquiv.symm_apply_apply]

theorem fft_ifft_exactArith (special : Word → ℝ) (x : List (Cx ℝ)) :
    fft (exactArith special) (ifft (exactArith special) x) = x := by
  rcases Nat.eq_zero_or_pos x.length with h0 | hpos
  · simp [List.eq_nil_of_length_eq_zero h0, fft, ifft]
  · have : NeZero x.length := ⟨hpos.ne'⟩
    refine periodic_inj (N := x.length) (by simp) rfl ?_
    rw [periodic_fft special (ifft_length _ _), periodic_ifft special rfl, LinearEquiv.apply_symm_apply]

/-! ## The sums as 00_scope.md R19 writes them -/

theorem rootSum_eq_sum_exp_neg (x : List (Cx ℝ)) (k : ℕ) :
    rootSum x (fun n => n * (-k)) = ∑ n : Fin x.length,
      toComplex x[n] * Complex.exp (-(2 * Real.pi * Complex.I * n * k / x.length)) :=
  Finset.sum_congr rfl fun n _ => by
    rw [rootOfUnity]
    push_cast
    ring_nf

theorem rootSum_eq_sum_exp (x : List (Cx ℝ)) (n : ℕ) :
    rootSum x (fun k => k * n) = ∑ k : Fin x.length,
      toComplex x[k] * Complex.exp (2 * Real.pi * Complex.I * k * n / x.length) :=
  Finset.sum_congr rfl fun k _ => by
    rw [rootOfUnity]
    push_cast
    ring_nf

end Sys2Proof.Machine

namespace Sys2Proof.Claims

open Sys2Proof.Machine

/-- Settles O60: each entry is a `rootSum`, and `ZMod.dft` is an equivalence. -/
theorem exactTransformsAreTheSpecs : Obligations.ExactTransformsAreTheSpecs := by
  intro special x A
  refine ⟨fun k hk => ?_, fun n hn => ?_, ifft_fft_exactArith special x, fft_ifft_exactArith special x⟩
  · have hk' : k < (fft A x).length := by simpa using hk
    exact ⟨_, List.getElem?_eq_getElem hk',
      (toComplex_getElem_fft special x k hk').trans (rootSum_eq_sum_exp_neg x k)⟩
  · have hn' : n < (ifft A x).length := by simpa using hn
    refine ⟨_, List.getElem?_eq_getElem hn', ?_⟩
    rw [toComplex_getElem_ifft special x n hn', rootSum_eq_sum_exp]

end Sys2Proof.Claims
end

section
/-! SUPPORT. What one step can do, said once: the CSR map and the host's accesses (10_state.md R36), the step of
CMD (30_encoding.md R150, R152), and the principle that what every turn keeps, every step keeps. -/

namespace Sys2Proof.Machine

/-! ## The CSR map (10_state.md R36, R52) -/

/-- The byte offset of a register in the CSR space (10_state.md R36, R52). -/
def Csr.offset : Csr → Nat
  | .id => 0x000
  | .ctrl => 0x004
  | .status => 0x008
  | .irqStatus => 0x00C
  | .irqEnable => 0x010
  | .errCause => 0x014
  | .errInfo => 0x018
  | .frameCount => 0x01C
  | .signalLevel => 0x020
  | .coarseCorr => 0x024
  | .fineCorr => 0x028
  | .lastIndex => 0x02C
  | .oscPhase => 0x030
  | .subchStage0 => 0x040
  | .subchStage1 => 0x044
  | .subchCommit => 0x048
  | .subchActive0 => 0x04C
  | .subchActive1 => 0x050
  | .cnt .syncTimeout => 0x080
  | .cnt .peakFail => 0x084
  | .cnt .nosample => 0x088
  | .cnt .frames => 0x08C
  | .cnt .ficBlocks => 0x090
  | .cnt .cifIn => 0x094
  | .cnt .cifStale => 0x098
  | .cnt .rsCorr => 0x09C
  | .cnt .rsUncorr => 0x0A0
  | .cnt .fireFail => 0x0A4
  | .cnt .sfOk => 0x0A8
  | .cnt .auOk => 0x0AC
  | .cnt .auCrcFail => 0x0B0
  | .cnt .auMalformed => 0x0B4
  | .cnt .cmdErr => 0x0B8
  | .cnt .iqOverflow => 0x0BC
  | .cnt .ficDrop => 0x0C0
  | .cnt .auDrop => 0x0C4
  | .cntSnapshot => 0x0FC
  | .iqPush32 => 0x100
  | .iqPush8 => 0x104
  | .iqFree => 0x108
  | .ficPop => 0x110
  | .ficAvail => 0x114
  | .auPop => 0x120
  | .auAvail => 0x124
  | .cmdW0 => 0x200
  | .cmdW1 => 0x204
  | .cmdW2 => 0x208
  | .cmdW3 => 0x20C
  | .cmdGo => 0x210
  | .cmdStatus => 0x214
  | .cmdResult => 0x218
  | .cmdSeq => 0x21C

theorem csrAt_offset (r : Csr) : csrAt r.offset = some r := by
  cases r with
  | cnt c => cases c <;> rfl
  | _ => rfl

theorem offset_of_csrAt {o : Nat} {r : Csr} (h : csrAt o = some r) : r.offset = o := by
  unfold csrAt at h
  split at h <;> cases h <;> rfl

theorem Csr.offset_lt (r : Csr) : r.offset < 0x1000 := by
  cases r with
  | cnt c => cases c <;> decide
  | _ => decide

theorem Csr.offset_aligned (r : Csr) : r.offset % 4 = 0 := by
  cases r with
  | cnt c => cases c <;> rfl
  | _ => rfl

/-! ## Where a host access goes (20_memory.md R102, R110, R111) -/

theorem targetOf_csr {a : Nat} (h : a < 0x1000) (h4 : a % 4 = 0) : targetOf a .w32 = .csr a := by
  simp [targetOf, h, h4]

theorem csr_of_targetOf {a o : Nat} {w : Width} (h : targetOf a w = .csr o) : a = o ∧ w = .w32 := by
  unfold targetOf at h
  split at h
  · split at h
    · next hw => exact ⟨Target.csr.inj h, hw.1⟩
    · cases h
  · split at h
    · split at h <;> cases h
    · cases h

/-- An access to BUF lies wholly inside it, because it is aligned. -/
theorem buf_of_targetOf {a o : Nat} {w : Width} (h : targetOf a w = .buf o) :
    o + Width.bytes w ≤ bufBytes := by
  unfold targetOf at h
  split at h
  · split at h <;> cases h
  · split at h
    · next hin =>
      split at h
      · next hal =>
        obtain rfl := Target.buf.inj h
        cases w <;> simp only [Width.bytes, bufBytes] at * <;> omega
      · cases h
    · cases h

/-! ## Host accesses -/

theorem State.hostWrite_csr (s : State) {a : HostAddr} {r : Csr} (h : csrAt a.toNat = some r) (v : Word) :
    s.hostWrite a .w32 v = s.csrWrite v r := by
  have ha := offset_of_csrAt h
  simp [State.hostWrite, targetOf_csr (ha ▸ r.offset_lt) (ha ▸ r.offset_aligned), h]

theorem State.hostRead_csr (s after : State) {a : HostAddr} {r : Csr} (h : csrAt a.toNat = some r) :
    s.hostRead after a .w32 = (s.csrReadEffect r).answer (s.csrValue r) := by
  have ha := offset_of_csrAt h
  simp [State.hostRead, targetOf_csr (ha ▸ r.offset_lt) (ha ▸ r.offset_aligned), h]

/-- Everything a host write can do. -/
theorem State.hostWrite_cases (s : State) (a : HostAddr) (w : Width) (v : Word) :
    (∃ r : Csr, a.toNat = r.offset ∧ w = .w32 ∧ s.hostWrite a w v = s.csrWrite v r) ∨
    (∃ o, o + Width.bytes w ≤ bufBytes ∧ s.hostWrite a w v =
      (s.noteRace o (Width.bytes w)).memWrite o (bytesOfWord (Width.bytes w) v)) ∨
    s.hostWrite a w v = s.busError a ∨ s.hostWrite a w v = s := by
  unfold State.hostWrite
  split
  · next o ht =>
    obtain ⟨hao, hw⟩ := csr_of_targetOf ht
    split
    · next r hr => exact .inl ⟨r, hao.trans (offset_of_csrAt hr).symm, hw, rfl⟩
    · exact .inr (.inr (.inr rfl))
  · next o ht => exact .inr (.inl ⟨o, buf_of_targetOf ht, rfl⟩)
  · exact .inr (.inr (.inl rfl))

/-- Everything a host read can do: no register but `FIC_POP` and `AU_POP` has a side effect. -/
theorem State.hostRead_cases (s after : State) (a : HostAddr) (w : Width) :
    (∃ (r : Csr) (v : Word), s.hostRead after a w = (s.csrReadEffect r).answer v) ∨
    s.hostRead after a w = (s.busError a).answer 0 := by
  unfold State.hostRead
  split
  · split
    · next r _ => exact .inl ⟨r, _, rfl⟩
    · exact .inl ⟨.id, 0, rfl⟩
  · exact .inl ⟨.id, _, rfl⟩
  · exact .inr rfl

/-- A read of a register touches the queues only (20_memory.md R116). -/
theorem State.csrReadEffect_frame (s : State) (r : Csr) :
    s.csrReadEffect r = { s with q := (s.csrReadEffect r).q } := by
  unfold State.csrReadEffect
  split <;> rfl

/-- A write to `CTRL` acts on the state, or on the reset state its SOFT_RESET gives, and then touches run control
and the events only (10_state.md R37). -/
theorem State.writeCtrl_cases (s : State) (v : Word) : ∃ ctl ev, s.writeCtrl v =
    { (if v.getLsbD 3 then s.softReset else s) with ctl := ctl, ev := ev } := by
  unfold State.writeCtrl
  generalize (if v.getLsbD 3 then s.softReset else s) = u
  have hstop : ∀ t : State, ∃ ctl ev, t.stop = { t with ctl := ctl, ev := ev } := fun t => by
    unfold State.stop
    split
    · exact ⟨t.ctl, t.ev, rfl⟩
    · exact ⟨_, _, rfl⟩
  obtain ⟨ctl, ev, h⟩ := hstop (u.setEnables v)
  dsimp only
  cases v.getLsbD 1 <;> cases v.getLsbD 2
  · exact ⟨_, u.ev, rfl⟩
  · exact ⟨_, u.ev, rfl⟩
  · exact ⟨ctl, ev, h⟩
  · exact ⟨_, ev, congrArg State.finish h⟩

/-- A commit touches the selection registers and the events only (10_state.md R47). -/
theorem State.commit_frame (s : State) (v : Word) :
    s.commit v = { s with ev := (s.commit v).ev, sel := (s.commit v).sel } := by
  unfold State.commit
  split
  · rfl
  · dsimp only
    split <;> rfl

/-- An IQ push touches IQF, or the counters and the events (40_sync_ofdm.md R201). -/
theorem State.pushIq_frame (s : State) (bs : List Byte) : s.pushIq bs =
    { s with ev := (s.pushIq bs).ev, live := (s.pushIq bs).live, q := (s.pushIq bs).q } := by
  unfold State.pushIq
  split <;> rfl

/-- `CMD_GO` touches CMD and the events only (10_state.md R41). -/
theorem State.cmdGo_frame (s : State) :
    s.cmdGo = { s with ev := s.cmdGo.ev, cmd := s.cmdGo.cmd } := by
  unfold State.cmdGo
  split
  · dsimp only
    split
    · generalize hu : ({ s with cmd := _ } : State) = u
      obtain e | ⟨_, _, _, _, e⟩ := u.noteDrain_cases <;> rw [e] <;> subst hu <;> rfl
    · rfl
  · rfl

/-- A write to a register other than `CTRL` leaves run control, the measurements, the agents' own state, BUF and
the model's own fields as they are. -/
theorem State.csrWrite_frame (s : State) (v : Word) {r : Csr} (hr : r ≠ .ctrl) : s.csrWrite v r =
    { s with
      ev := (s.csrWrite v r).ev, sel := (s.csrWrite v r).sel, live := (s.csrWrite v r).live
      snap := (s.csrWrite v r).snap, snapSeq := (s.csrWrite v r).snapSeq, q := (s.csrWrite v r).q
      cmd := (s.csrWrite v r).cmd } := by
  cases r with
  | ctrl => exact absurd rfl hr
  | subchCommit => dsimp only [State.csrWrite]; rw [s.commit_frame v]
  | iqPush32 => dsimp only [State.csrWrite]; rw [s.pushIq_frame _]
  | iqPush8 => dsimp only [State.csrWrite]; rw [s.pushIq_frame _]
  | cmdGo => dsimp only [State.csrWrite]; rw [s.cmdGo_frame]
  | _ => rfl

/-! ## What a completion leaves of CMD -/

@[simp] theorem State.complete_cmd_queue (s : State) (r : ResultCode) (v : Word) :
    (s.complete r v).cmd.queue = s.cmd.queue.tail := by
  unfold State.complete
  split
  · next h => simp [h]
  · next h => simp [CmdState.completed, h]

/-- A command that completes holds no selection. -/
theorem State.held_of_complete {s : State} {r : ResultCode} {v : Word} {a : Selection}
    (h : (s.complete r v).cmd.held = some a) : s.cmd.held = some a := by
  unfold State.complete at h
  split at h
  · exact h
  · simp [CmdState.completed] at h

/-! ## The step of CMD (30_encoding.md R150, R152) -/

/-- Everything one step of CMD can do to the state `s`. -/
inductive CommandEffect (s : State) : State → Prop
  /-- no command, or one that waits as before -/
  | nothing : CommandEffect s s
  | complete (r : ResultCode) (v : Word) : CommandEffect s (s.complete r v)
  /-- a command writes inside BUF and completes -/
  | write (a : Nat) (bs : List Byte) (r : ResultCode) (v : Word) (h : a + bs.length ≤ bufBytes) :
      CommandEffect s ((s.cmdWrite a bs).complete r v)
  /-- an injecting command waits, with the selection it was checked with (46_control.md R442) -/
  | hold (a : Selection) (h : s.cmd.held = some a ∨ (s.sel.act.valid = true ∧ a = s.sel.act)) :
      CommandEffect s { s with cmd := { s.cmd with held := some a } }
  | pushMscq (x : BitVec 16 × List SoftBit) (r : ResultCode) (v : Word)
      (h : s.q.mscq.length < Config.mscqDepth) :
      CommandEffect s ({ s with q := { s.q with mscq := s.q.mscq ++ [x] } }.complete r v)
  | pushSfq (x : BitVec 16 × List Byte) (r : ResultCode) (v : Word)
      (h : s.q.sfq.length < Config.sfqDepth) :
      CommandEffect s ({ s with q := { s.q with sfq := s.q.sfq ++ [x] } }.complete r v)

namespace CommandEffect

/-- The checks of a command come before what it does. -/
theorem runCommand {s run : State} {p g : Bool} (h : p = true → g = true → CommandEffect s run) :
    CommandEffect s (s.runCommand p g run) := by
  obtain ⟨-, e⟩ | ⟨-, -, e⟩ | ⟨-, -, -, e⟩ | ⟨-, hp, hg, e⟩ := s.runCommand_cases p g run
  · exact e.symm ▸ nothing
  · exact e.symm ▸ complete _ _
  · exact e.symm ▸ complete _ _
  · exact e.symm ▸ h hp hg

/-- A command that writes its last region, which its checks have found inside BUF. -/
theorem runWriting {s : State} {p g : Bool} {dst len align : Nat} {bs : List Byte} {r : ResultCode} {v : Word}
    (hlen : p = true → bs.length = len) :
    CommandEffect s (s.runCommand p (g && regionOk dst len align) ((s.cmdWrite dst bs).complete r v)) :=
  runCommand fun hp hg => write _ _ _ _ <| by
    obtain ⟨-, hin⟩ := regionOk_iff.mp (Bool.and_eq_true_iff.mp hg).2
    exact hlen hp ▸ hin

theorem inject {s pushed : State} {a : Selection} {full : Bool} {n : Nat}
    (hold : s.cmd.held = some a ∨ (s.sel.act.valid = true ∧ a = s.sel.act))
    (push : full = false → ∀ r v, CommandEffect s (pushed.complete r v)) :
    CommandEffect s (s.inject a full pushed n) := by
  unfold State.inject
  split
  · exact complete _ _
  · split
    · exact .hold a hold
    · next hfull => exact push (by simpa using hfull) _ _

theorem injectCommand {s : State} {src : BufOffset} {len : Selection → Nat} {full : Bool}
    {pushed : Selection → State} (push : full = false → ∀ a r v, CommandEffect s ((pushed a).complete r v)) :
    CommandEffect s (s.injectCommand src len full pushed) := by
  unfold State.injectCommand
  split
  · next a ha => exact inject (.inl ha) fun hf => push hf a
  · split
    · exact complete _ _
    · next hv => exact runCommand fun _ _ => inject (.inr ⟨by simpa using hv, rfl⟩) fun hf => push hf _

end CommandEffect

/-- A command always answers a next state, and does one of the things listed. -/
theorem exec_effect (i : Instr) (s : State) : ∃ t, exec i s = .next t ∧ CommandEffect s t := by
  cases i with
  | nop => exact ⟨_, rfl, .runCommand fun _ _ => .complete _ _⟩
  | fft inv src dst =>
    refine ⟨_, rfl, .runWriting fun _ => ?_⟩
    cases inv <;> simp [State.spectrumAt, spectrumBytes]
  | findidx src => exact ⟨_, rfl, .runCommand fun _ _ => .complete _ _⟩
  | coarse src => exact ⟨_, rfl, .runCommand fun _ _ => .complete _ _⟩
  | ddemod src dst cur => exact ⟨_, rfl, .runWriting fun _ => softBits_length _ _ _ _⟩
  | vitdec src dst n => exact ⟨_, rfl, .runWriting fun _ => by simp [bytesForBits]⟩
  | depunct src dst bitrate profile levelM1 =>
    exact ⟨_, rfl, .runWriting fun hp => depuncture_length hp (level_mem levelM1) _⟩
  | descr src dst nbits => exact ⟨_, rfl, .runWriting fun _ => by simp [bytesForBits]⟩
  | rsdec src dst => exact ⟨_, rfl, .runWriting fun _ => by simp⟩
  | sfchk src dst cw => exact ⟨_, rfl, .runWriting fun _ => by simp⟩
  | firecrc src => exact ⟨_, rfl, .runCommand fun _ _ => .complete _ _⟩
  | crc16 src nbytes => exact ⟨_, rfl, .runCommand fun _ _ => .complete _ _⟩
  | injmsc src =>
    exact ⟨_, rfl, .runCommand fun _ _ => .injectCommand fun hfull _ _ _ =>
      .pushMscq _ _ _ (by simpa using hfull)⟩
  | injsf src =>
    exact ⟨_, rfl, .runCommand fun _ _ => .injectCommand fun hfull _ _ _ =>
      .pushSfq _ _ _ (by simpa using hfull)⟩
  | drain =>
    refine ⟨_, rfl, .runCommand fun _ _ => ?_⟩
    split
    · exact .complete _ _
    · split
      · exact .complete _ _
      · exact .nothing

theorem cmdStep_effect (s : State) : ∃ t, cmdStep s = .next t ∧ CommandEffect s t := by
  unfold cmdStep
  split
  · exact ⟨s, rfl, .nothing⟩
  · split
    · exact exec_effect _ s
    · exact ⟨_, rfl, .complete _ _⟩
    · exact ⟨_, rfl, .complete _ _⟩

/-! ## Steps -/

/-- A step answers what its turn answers, ended. -/
theorem step_of_runTurn {s t : State} (h : runTurn s.nextTurn s.beginTurn = .next t) :
    step s = .next t.settle := by
  rw [step_eq, h, settleOutcome]

/-- Every turn answers a next state. -/
theorem runTurn_next (u : Turn) (s : State) : ∃ t, runTurn u s = .next t := by
  cases u with
  | cmd => exact (cmdStep_effect s).imp fun _ h => h.1
  | _ => exact ⟨_, rfl⟩

/-- A step that answers `t` is a turn that answers some `u`, and `t` is `u` ended. -/
theorem runTurn_of_step {s t : State} (h : step s = .next t) :
    ∃ u, runTurn s.nextTurn s.beginTurn = .next u ∧ t = u.settle := by
  obtain ⟨u, hu⟩ := runTurn_next s.nextTurn s.beginTurn
  rw [step_of_runTurn hu] at h
  exact ⟨u, hu, (Host.Outcome.next.inj h).symm⟩

/-- A property of states that the beginning and the end of a turn keep, every turn of an agent, and every effect
of CMD and of a host access. -/
structure TurnsKeep (P : State → Prop) : Prop where
  beginTurn : ∀ {s : State}, P s → P s.beginTurn
  settle : ∀ {s : State}, P s → P s.settle
  acq : ∀ {s : State}, P s → P s.acqStep
  sync : ∀ {s : State}, P s → P s.syncStep
  nosample : ∀ {s : State}, P s → P s.nosampleStep
  demod : ∀ {s : State}, P s → P s.demodStep
  msc : ∀ {s : State}, P s → P s.mscStep
  sfa : ∀ {s : State}, P s → P s.sfaStep
  cmd : ∀ {s t : State}, CommandEffect s t → P s → P t
  raise : ∀ {s : State} (c : Event) (info : Word), P s → P (s.raise c info)
  answer : ∀ {s : State} (v : Word), P s → P (s.answer v)
  csrRead : ∀ {s : State} (r : Csr), P s → P (s.csrReadEffect r)
  csrWrite : ∀ {s : State} (v : Word) (r : Csr), P s → P (s.csrWrite v r)
  bufWrite : ∀ {s : State} {o n : Nat} {bs : List Byte}, o + bs.length ≤ bufBytes → P s →
    P ((s.noteRace o n).memWrite o bs)
  hardwareReset : ∀ s : State, P s.hardwareReset

namespace TurnsKeep

variable {P : State → Prop}

theorem hostAccess (k : TurnsKeep P) {s : State} (h : P s) (after : State) (x : HostAccess) :
    P (s.hostAccess after x) := by
  cases x with
  | read a w =>
    show P (s.hostRead after a w)
    obtain ⟨r, v, e⟩ | e := s.hostRead_cases after a w
    · exact e ▸ k.answer v (k.csrRead r h)
    · exact e ▸ k.answer 0 (k.raise _ _ h)
  | write a w v =>
    show P (s.hostWrite a w v)
    obtain ⟨r, -, -, e⟩ | ⟨o, ho, e⟩ | e | e := s.hostWrite_cases a w v
    · exact e ▸ k.csrWrite v r h
    · exact e ▸ k.bufWrite (by simpa [bytesOfWord] using ho) h
    · exact e ▸ k.raise _ _ h
    · exact e.symm ▸ h

theorem runTurn (k : TurnsKeep P) {s t : State} {u : Turn} (h : P s) (e : runTurn u s = .next t) : P t := by
  cases u with
  | cmd =>
    obtain ⟨t', e', effect⟩ := cmdStep_effect s
    obtain rfl : t' = t := Host.Outcome.next.inj (e'.symm.trans e)
    exact k.cmd effect h
  | host x => exact Host.Outcome.next.inj e ▸ k.hostAccess h _ x
  | acq => exact Host.Outcome.next.inj e ▸ k.acq h
  | sync => exact Host.Outcome.next.inj e ▸ k.sync h
  | nosample => exact Host.Outcome.next.inj e ▸ k.nosample h
  | demod => exact Host.Outcome.next.inj e ▸ k.demod h
  | msc => exact Host.Outcome.next.inj e ▸ k.msc h
  | sfa => exact Host.Outcome.next.inj e ▸ k.sfa h
  | hardwareReset => exact Host.Outcome.next.inj e ▸ k.hardwareReset s

/-- What every turn keeps, every step keeps. -/
theorem step (k : TurnsKeep P) {s t : State} (h : P s) (e : step s = .next t) : P t := by
  obtain ⟨u, hu, rfl⟩ := runTurn_of_step e
  exact k.settle (k.runTurn (k.beginTurn h) hu)

end TurnsKeep

end Sys2Proof.Machine
end

section
/-! SUPPORT. The capacities of the queues (10_state.md R60, R61): an agent pushes only where its step has found
room. -/

namespace Sys2Proof.Machine

/-- The queues of the pipeline hold no more than their capacities (10_state.md R60). -/
structure Queues.Bounded (q : Queues) : Prop where
  iqf : q.iqf.length ≤ Config.iqFifoBytes
  sampq : q.sampq.length ≤ Config.sampqDepth
  symq : q.symq.length ≤ Config.symqDepth
  ficq : q.ficq.length ≤ Config.ficqDepth
  mscq : q.mscq.length ≤ Config.mscqDepth
  sfq : q.sfq.length ≤ Config.sfqDepth
  auq : 4 * q.auq.length ≤ Config.auqBytes

theorem State.queuesBounded_iff {s : State} :
    s.QueuesBounded ↔ s.q.Bounded ∧ s.cmd.queue.length ≤ cmdqDepth :=
  ⟨fun h => ⟨⟨h.iqf, h.sampq, h.symq, h.ficq, h.mscq, h.sfq, h.auq⟩, h.cmdq⟩,
    fun ⟨h, hc⟩ => ⟨h.iqf, h.sampq, h.symq, h.ficq, h.mscq, h.sfq, h.auq, hc⟩⟩

theorem Queues.bounded_reset : State.reset.q.Bounded where
  iqf := Nat.zero_le _
  sampq := Nat.zero_le _
  symq := Nat.zero_le _
  ficq := Nat.zero_le _
  mscq := Nat.zero_le _
  sfq := Nat.zero_le _
  auq := Nat.zero_le _

/-- One more entry fits where there is room. -/
theorem length_append_singleton_le {α : Type} {l : List α} {n : Nat} (h : l.length < n) (x : α) :
    (l ++ [x]).length ≤ n := by
  simpa using h

/-- What is left after a pop fits where the whole did. -/
theorem length_le_of_cons {α : Type} {l rest : List α} {x : α} {n : Nat} (h : l.length ≤ n)
    (hl : l = x :: rest) : rest.length ≤ n := by
  rw [hl, List.length_cons] at h
  omega

namespace Queues.Bounded

variable {s : State}

/-! ## ACQ and SYNC -/

theorem acqStep (h : s.q.Bounded) : s.acqStep.q.Bounded := by
  unfold State.acqStep
  split
  · exact h
  · next hgo =>
    simp only [Bool.or_eq_true, decide_eq_true_eq, not_or, Nat.not_le] at hgo
    split
    · next hq =>
      have hi := h.iqf
      rw [hq, List.length_cons, List.length_cons] at hi
      exact { h with iqf := by dsimp only; omega, sampq := length_append_singleton_le hgo.2 _ }
    · exact h

theorem pushSymq (h : s.q.Bounded) (room : s.symqFull = false) (e : SymEntry) : (s.pushSymq e).q.Bounded :=
  { h with symq := length_append_singleton_le (by simpa [State.symqFull] using room) e }

/-- A restart pushes the marker of the frame it abandons, which only SYMBOLS has. -/
theorem restart (h : s.q.Bounded) (room : s.sync.phase = .symbols → s.symqFull = false) :
    s.restart.q.Bounded := by
  show s.abortFrame.q.Bounded
  unfold State.abortFrame
  split
  · next hp => exact h.pushSymq (room hp) _
  · exact h

theorem symbolDone (h : s.q.Bounded) (room : s.symqFull = false) : s.symbolDone.q.Bounded := by
  have pushed : (s.pushSymq (.symbol s.sync.fseq s.sync.l s.sync.S)).q.Bounded := h.pushSymq room _
  unfold State.symbolDone
  split <;> exact pushed

theorem symbolSample (h : s.q.Bounded) (room : s.sync.completesSymbol = true → s.symqFull = false)
    (y : Cx Num) : (s.symbolSample y).q.Bounded := by
  unfold State.symbolSample
  split
  · split <;> exact h
  · next hp =>
    split
    · next hS =>
      have : s.symqFull = false := room (by simp [SyncState.completesSymbol, hp, hS])
      exact symbolDone (s := s.usefulSample y) h this
    · exact h

theorem captureDone (h : s.q.Bounded) (hp : s.sync.phase = .capture) : s.captureDone.q.Bounded := by
  unfold State.captureDone
  split
  · exact restart (s := State.raise _ _ _) h fun hs => absurd (hp.symm.trans hs) nofun
  · split
    · split
      · exact h
      · next room =>
        have room' : s.symqFull = false := by simpa using room
        exact symbolDone (s := s.startSymbols _) h room'
    · exact h

theorem consume (h : s.q.Bounded)
    (room : s.sync.phase = .symbols → s.sync.completesSymbol = true → s.symqFull = false) (y : Cx Num) :
    (s.consume y).q.Bounded := by
  unfold State.consume
  dsimp only
  split
  · exact h
  · split <;> exact h
  · exact h
  · exact h
  · exact h
  · next hp => exact h.symbolSample (room hp) y

theorem sampleStep (h : s.q.Bounded) : s.sampleStep.q.Bounded := by
  unfold State.sampleStep
  split
  · exact h
  · next hgo =>
    split
    · exact h
    · next x rest hq =>
      have taken : (s.takeSample x rest).q.Bounded := { h with sampq := length_le_of_cons h.sampq hq }
      refine taken.consume (fun hp hc => ?_) _
      have hp' : s.sync.phase = .symbols := hp
      have hc' : s.sync.completesSymbol = true := hc
      show s.symqFull = false
      simpa [hp', hc'] using hgo

/-- A timeout comes in a search for the null symbol: it abandons no frame. -/
theorem syncTimeoutStep (h : s.q.Bounded) (hp : s.sync.phase ≠ .symbols) : s.syncTimeoutStep.q.Bounded :=
  restart (s := State.raise _ _ _) h fun hs => absurd hs hp

theorem syncStep (h : s.q.Bounded) : s.syncStep.q.Bounded := by
  unfold State.syncStep
  split
  · exact h
  · split
    · exact h
    · exact h.sampleStep
    · next hp =>
      split
      · exact h
      · split
        · exact h.syncTimeoutStep (by simp [hp])
        · exact h.sampleStep
    · next hp =>
      split
      · exact h
      · split
        · exact h.syncTimeoutStep (by simp [hp])
        · exact h.sampleStep
    · next hp =>
      split
      · exact h.sampleStep
      · exact h.captureDone hp
    · exact h.sampleStep

theorem nosampleStep (h : s.q.Bounded) : s.nosampleStep.q.Bounded := by
  unfold State.nosampleStep
  split
  · next he =>
    refine restart (s := { State.raise _ _ _ with sync := _ }) h fun hp => ?_
    have hp' : s.sync.phase = .symbols := hp
    show s.symqFull = false
    simp only [State.nosampleEnabled, hp', beq_self_eq_true, Bool.true_and, Bool.and_eq_true,
      Bool.not_eq_true'] at he
    exact he.2
  · exact h

/-! ## DEMOD -/

theorem ficEmit (h : s.q.Bounded) (f : Word) : (s.ficEmit f).q.Bounded := by
  unfold State.ficEmit
  split
  · next room => exact { h with ficq := length_append_singleton_le room _ }
  · exact h

theorem ficSymbol (h : s.q.Bounded) (f : Word) (l : Nat) (b : List SoftBit) :
    (s.ficSymbol f l b).q.Bounded := by
  unfold State.ficSymbol
  dsimp only
  split
  · refine ficEmit ?_ f
    exact h
  · exact h

theorem cifSymbol (h : s.q.Bounded) (a : Selection) (b : List SoftBit)
    (room : s.demod.cif.length + 1 = cifSymbols → a.valid = true → s.q.mscq.length < Config.mscqDepth) :
    (s.cifSymbol a b).q.Bounded := by
  unfold State.cifSymbol
  split
  · next hc =>
    show ((s.storeCif b).cifEmit a).q.Bounded
    unfold State.cifEmit
    split
    · next hv => exact { h with mscq := length_append_singleton_le (room hc hv) _ }
    · exact h
  · exact h

theorem demodEntry (h : s.q.Bounded) (e : SymEntry)
    (room : s.demodPushes e = true → s.q.mscq.length < Config.mscqDepth) : (s.demodEntry e).q.Bounded := by
  cases e with
  | abort f => exact h
  | symbol f l x =>
    show (s.demodSymbol f l x).q.Bounded
    unfold State.demodSymbol
    dsimp only
    split
    · exact h
    · next hl =>
      split
      · exact h
      · next hz =>
        split
        · refine ficSymbol ?_ f l _
          exact h
        · next hf =>
          refine cifSymbol ?_ _ _ fun hc hv => room ?_
          · exact h
          · have hc' : s.demod.cif.length + 1 = cifSymbols := hc
            simp_all [State.demodPushes]
            omega

theorem demodStep (h : s.q.Bounded) : s.demodStep.q.Bounded := by
  unfold State.demodStep
  split
  · exact h
  · split
    · exact h
    · next e rest hq =>
      split
      · exact h
      · next hgo =>
        have popped : ({ s with q := { s.q with symq := rest } } : State).q.Bounded :=
          { h with symq := length_le_of_cons h.symq hq }
        refine popped.demodEntry e fun hpush => ?_
        have hpush' : s.demodPushes e = true := hpush
        show s.q.mscq.length < _
        simpa [hpush'] using hgo

/-! ## MSC and SFA -/

/-- A fragment makes at most one payload. -/
theorem acceptFragment (h : s.q.Bounded) {x : BitVec 16 × List SoftBit} {rest : List (BitVec 16 × List SoftBit)}
    (hq : s.q.mscq = x :: rest) (room : s.sfqFull = false) (m : MscState)
    {payload : List (BitVec 16 × List Byte)} (hp : payload.length ≤ 1) :
    (s.acceptFragment rest m payload).q.Bounded := by
  have hroom : s.q.sfq.length < Config.sfqDepth := by simpa [State.sfqFull] using room
  refine { h with mscq := length_le_of_cons h.mscq hq, sfq := ?_ }
  show (s.q.sfq ++ payload).length ≤ _
  rw [List.length_append]
  omega

theorem mscStep (h : s.q.Bounded) : s.mscStep.q.Bounded := by
  unfold State.mscStep
  split
  · exact h
  · next hgo =>
    split
    · exact h
    · next gen frag rest hq =>
      dsimp only
      split
      · exact { h with mscq := length_le_of_cons h.mscq hq }
      · refine h.acceptFragment hq (by simp_all) _ ?_
        rw [List.length_map, Option.length_toList]
        split <;> omega

theorem emitRecord (h : s.q.Bounded) (record : List Word) (ready : Event) (info : Word) :
    (s.emitRecord record ready info).q.Bounded := by
  unfold State.emitRecord
  split
  · next room =>
    refine { h with auq := ?_ }
    show 4 * (s.q.auq ++ record).length ≤ _
    simp only [State.auqFits, decide_eq_true_eq] at room
    rw [List.length_append]
    omega
  · exact h

theorem processAu (h : s.q.Bounded) (w : List Byte) (cw hdr i start stop : Nat) :
    (s.processAu w cw hdr i start stop).q.Bounded := by
  unfold State.processAu
  dsimp only
  split
  · exact h
  · split
    · exact emitRecord (s := s.count _ _) h _ _ _
    · exact h

theorem processAus (h : s.q.Bounded) (w : List Byte) (cw hdr : Nat) (st : Nat → Nat) (is : List Nat) :
    (s.processAus w cw hdr st is).q.Bounded := by
  induction is generalizing s with
  | nil => exact h
  | cons i is ih => exact ih (h.processAu w cw hdr i _ _)

theorem raiseIf (h : s.q.Bounded) (b : Bool) (c : Event) (info : Word) : (s.raiseIf b c info).q.Bounded := by
  unfold State.raiseIf
  split <;> exact h

theorem enterSynced (h : s.q.Bounded) : s.enterSynced.q.Bounded := by
  refine raiseIf ?_ _ _ _
  exact h

theorem cacheFormat (h : s.q.Bounded) (w : List Byte) : (s.cacheFormat w).q.Bounded := by
  unfold State.cacheFormat
  split
  · exact h
  · refine emitRecord ?_ _ _ _
    exact h

theorem passWindow (h : s.q.Bounded) (w : List Byte) (cw nunc : Nat) : (s.passWindow w cw nunc).q.Bounded := by
  unfold State.passWindow
  split
  · exact h.enterSynced
  · exact (cacheFormat (s := s.enterSynced.count _ _) h.enterSynced w).processAus w cw _ _ _

theorem failWindow (h : s.q.Bounded) (fire : Bool) : (s.failWindow fire).q.Bounded := by
  refine raiseIf (s := s.countFireFail fire) ?_ (s.sfa.phase == SfPhase.synced) .sfLost 0
  unfold State.countFireFail
  split <;> exact h

theorem attemptWindow (h : s.q.Bounded) (cw : Nat) : (s.attemptWindow cw).q.Bounded := by
  have counted (r : RsWindow) : (s.countRsWindow r).q.Bounded :=
    (raiseIf (s := s.countSymbols r) h _ _ _).raiseIf _ _ _
  unfold State.attemptWindow
  dsimp only
  split
  · exact (counted _).passWindow _ _ _
  · exact (counted _).failWindow _

theorem sfaStep (h : s.q.Bounded) : s.sfaStep.q.Bounded := by
  unfold State.sfaStep
  split
  · exact h
  · split
    · exact h
    · next gen bytes rest hq =>
      have popped : (s.popSfq rest).q.Bounded := { h with sfq := length_le_of_cons h.sfq hq }
      split
      · exact popped
      · have adopted : ((s.popSfq rest).adoptSfaGen gen).q.Bounded := by
          unfold State.adoptSfaGen
          split <;> exact popped
        unfold State.assemble
        split
        · exact attemptWindow (s := State.storePayload _ _) adopted _
        · exact adopted

/-! ## The host -/

theorem pushIq (h : s.q.Bounded) (bs : List Byte) : (s.pushIq bs).q.Bounded := by
  unfold State.pushIq
  split
  · next room =>
    simp only [Bool.and_eq_true, decide_eq_true_eq] at room
    refine { h with iqf := ?_ }
    show (s.q.iqf ++ bs).length ≤ _
    rw [List.length_append]
    exact room.2
  · exact h

end Queues.Bounded

/-- The pop of a word leaves no more FIC records than before. -/
theorem popRecordWord_length_le (rs : List (List Word)) : (popRecordWord rs).length ≤ rs.length := by
  fun_induction popRecordWord rs with
  | case1 => exact Nat.le_refl _
  | case2 rs ih => exact Nat.le_succ_of_le ih
  | case3 => exact Nat.le_succ _
  | case4 => exact Nat.le_refl _

theorem Queues.Bounded.csrReadEffect {s : State} (h : s.q.Bounded) (r : Csr) :
    (s.csrReadEffect r).q.Bounded := by
  unfold State.csrReadEffect
  split
  · exact { h with ficq := (popRecordWord_length_le _).trans h.ficq }
  · refine { h with auq := ?_ }
    have := h.auq
    show 4 * (s.q.auq.drop 1).length ≤ _
    rw [List.length_drop]
    omega
  · exact h

namespace State.QueuesBounded

variable {s t : State}

/-- A state with the same queues. -/
theorem congr (h : s.QueuesBounded) (hq : t.q = s.q) (hc : t.cmd.queue = s.cmd.queue) : t.QueuesBounded :=
  queuesBounded_iff.mpr (by rw [hq, hc]; exact queuesBounded_iff.mp h)

/-- A streaming agent leaves CMDQ alone. -/
theorem pipeline (h : s.QueuesBounded) (k : PipelineOnly s t) (hq : s.q.Bounded → t.q.Bounded) :
    t.QueuesBounded :=
  queuesBounded_iff.mpr ⟨hq (queuesBounded_iff.mp h).1, by rw [k.cmd]; exact h.cmdq⟩

theorem settle (h : s.QueuesBounded) : s.settle.QueuesBounded := by
  obtain e | ⟨-, -, e⟩ := s.settle_cases
  · exact e.symm ▸ h
  · rw [e]
    exact { h with iqf := Nat.zero_le _ }

theorem commandEffect (h : s.QueuesBounded) (k : CommandEffect s t) : t.QueuesBounded := by
  have completed {u : State} (hu : u.QueuesBounded) (r : ResultCode) (v : Word) :
      (u.complete r v).QueuesBounded := by
    refine queuesBounded_iff.mpr ⟨?_, ?_⟩
    · rw [u.complete_q]
      exact (queuesBounded_iff.mp hu).1
    · rw [u.complete_cmd_queue, List.length_tail]
      exact (Nat.sub_le _ _).trans hu.cmdq
  cases k with
  | nothing => exact h
  | complete r v => exact completed h r v
  | write a bs r v _ =>
    have written : (s.cmdWrite a bs).QueuesBounded := { h with cmdq := by simpa using h.cmdq }
    exact completed written r v
  | hold a _ => exact h.congr rfl rfl
  | pushMscq x r v room =>
    have pushed : ({ s with q := { s.q with mscq := s.q.mscq ++ [x] } } : State).QueuesBounded :=
      { h with mscq := length_append_singleton_le room x }
    exact completed pushed r v
  | pushSfq x r v room =>
    have pushed : ({ s with q := { s.q with sfq := s.q.sfq ++ [x] } } : State).QueuesBounded :=
      { h with sfq := length_append_singleton_le room x }
    exact completed pushed r v

theorem cmdGo (h : s.QueuesBounded) : s.cmdGo.QueuesBounded := by
  unfold State.cmdGo
  split
  · next room =>
    dsimp only
    split
    · refine queuesBounded_iff.mpr ⟨?_, ?_⟩
      · rw [State.noteDrain_q]
        exact (queuesBounded_iff.mp h).1
      · rw [State.noteDrain_cmd_queue]
        exact length_append_singleton_le room _
    · exact { h with cmdq := length_append_singleton_le room _ }
  · exact h.congr rfl rfl

theorem commit (h : s.QueuesBounded) (v : Word) : (s.commit v).QueuesBounded := by
  rw [s.commit_frame v]
  exact h.congr rfl rfl

theorem reset : State.reset.QueuesBounded := queuesBounded_iff.mpr ⟨Queues.bounded_reset, Nat.zero_le _⟩

theorem writeCtrl (h : s.QueuesBounded) (v : Word) : (s.writeCtrl v).QueuesBounded := by
  obtain ⟨ctl, ev, e⟩ := s.writeCtrl_cases v
  rw [e]
  cases v.getLsbD 3
  · exact h.congr rfl rfl
  · exact reset.congr rfl rfl

theorem csrWrite (h : s.QueuesBounded) (v : Word) (r : Csr) : (s.csrWrite v r).QueuesBounded := by
  have pushIq (bs : List Byte) : (s.pushIq bs).QueuesBounded := by
    refine queuesBounded_iff.mpr ⟨(queuesBounded_iff.mp h).1.pushIq bs, ?_⟩
    rw [s.pushIq_frame bs]
    exact h.cmdq
  cases r with
  | ctrl => exact h.writeCtrl v
  | subchCommit => exact h.commit v
  | iqPush32 => exact pushIq _
  | iqPush8 => exact pushIq _
  | cmdGo => exact h.cmdGo
  | _ => exact h.congr rfl rfl

theorem turnsKeep : TurnsKeep State.QueuesBounded where
  beginTurn h := h.congr rfl rfl
  settle h := h.settle
  acq h := h.pipeline (.acqStep _) (·.acqStep)
  sync h := h.pipeline (.syncStep _) (·.syncStep)
  nosample h := h.pipeline (.nosampleStep _) (·.nosampleStep)
  demod h := h.pipeline (.demodStep _) (·.demodStep)
  msc h := h.pipeline (.mscStep _) (·.mscStep)
  sfa h := h.pipeline (.sfaStep _) (·.sfaStep)
  cmd k h := h.commandEffect k
  raise _ _ h := h.congr rfl rfl
  answer _ h := h.congr rfl rfl
  csrRead r h := queuesBounded_iff.mpr
    ⟨(queuesBounded_iff.mp h).1.csrReadEffect r, by rw [State.csrReadEffect_frame]; exact h.cmdq⟩
  csrWrite v r h := h.csrWrite v r
  bufWrite _ h := { h with cmdq := by simpa [State.noteRace] using h.cmdq }
  hardwareReset _ := reset.congr rfl rfl

end State.QueuesBounded

end Sys2Proof.Machine

namespace Sys2Proof.Claims

open Sys2Proof.Machine

/-- Settles O40: every push finds room first, and every turn keeps the capacities. -/
theorem stepKeepsQueuesBounded : Obligations.StepKeepsQueuesBounded :=
  fun _ _ h e => State.QueuesBounded.turnsKeep.step h e

end Sys2Proof.Claims
end

section
/-! SUPPORT. The ranges of the counts of SYNC, DEMOD, MSC and SFA (10_state.md R50, R51): what each operation of
SYNC does to them, and that every turn keeps them. -/

namespace Sys2Proof.Machine

/-! ## SYNC: one lemma per update of its state -/

theorem envWin_pos : 0 < envWin := by decide

theorem cifSymbols_pos : 0 < cifSymbols := by decide

theorem clampCoarse_range (c : Int) : -1024 ≤ clampCoarse c ∧ clampCoarse c ≤ 1023 := by
  unfold clampCoarse
  omega

namespace SyncState.InRange

variable {k : SyncState}

theorem reset : SyncState.reset.InRange where
  env := List.length_replicate
  envPtr := by decide
  fill := Nat.zero_le _
  filling := nofun
  c := Nat.zero_le _
  coarse := by decide
  symbol := Nat.zero_le _
  window := Nat.zero_le _

theorem restarted (h : k.InRange) : k.restarted.InRange :=
  { h with
    envPtr := envWin_pos
    fill := Nat.zero_le _
    filling := fun _ => envWin_pos
    c := Nat.zero_le _
    window := Nat.zero_le _ }

theorem nextFrame (h : k.InRange) : k.nextFrame.InRange :=
  { h with
    envPtr := envWin_pos
    fill := Nat.zero_le _
    filling := fun _ => envWin_pos }

theorem nextSymbol (h : k.InRange) (hl : k.l ≠ symbolsPerFrame) : k.nextSymbol.InRange :=
  { h with symbol := Nat.lt_of_le_of_ne h.symbol hl }

/-- The window slides by one place, in a search that has not timed out. -/
theorem slide (h : k.InRange) (hc : k.c < syncTimeout) (e : Num) :
    ({ k.slide e with c := k.c + 1 } : SyncState).InRange :=
  { h with
    env := List.length_set.trans h.env
    envPtr := Nat.mod_lt _ (by decide)
    c := hc }

end SyncState.InRange

end Sys2Proof.Machine

namespace Sys2Proof.Claims.CountsInRange

open Sys2Proof.Machine

variable {s t : State}

/-! ## Updates of one agent's state -/

/-- A state in which every agent's own state is the same. -/
theorem congr (h : CountsInRange s) (hs : t.sync = s.sync := by rfl) (hd : t.demod = s.demod := by rfl)
    (hm : t.msc = s.msc := by rfl) (hf : t.sfa = s.sfa := by rfl) : CountsInRange t where
  sync := hs ▸ h.sync
  agents :=
    { cif := hd ▸ h.agents.cif, cifNum := hd ▸ h.agents.cifNum
      ti := hm ▸ h.agents.ti, tiW := hm ▸ h.agents.tiW
      tiFill := hm ▸ h.agents.tiFill, store := hf ▸ h.agents.store }

/-- SYNC owns its state alone. -/
theorem ofSync (h : CountsInRange s) (hk : t.sync.InRange) (hd : t.demod = s.demod := by rfl)
    (hm : t.msc = s.msc := by rfl) (hf : t.sfa = s.sfa := by rfl) : CountsInRange t where
  sync := hk
  agents := { (h.congr (t := { t with sync := s.sync }) rfl hd hm hf).agents with }

/-- DEMOD owns its state alone. -/
theorem ofDemod (h : CountsInRange s) (hc : t.demod.cif.length < cifSymbols) (hn : t.demod.cifNum < 4)
    (hs : t.sync = s.sync := by rfl) (hm : t.msc = s.msc := by rfl) (hf : t.sfa = s.sfa := by rfl) :
    CountsInRange t where
  sync := hs ▸ h.sync
  agents := { (h.congr (t := { t with demod := s.demod }) hs rfl hm hf).agents with cif := hc, cifNum := hn }

/-- SFA owns its state alone. -/
theorem ofSfa (h : CountsInRange s) (hstore : t.sfa.store.length ≤ 4) (hs : t.sync = s.sync := by rfl)
    (hd : t.demod = s.demod := by rfl) (hm : t.msc = s.msc := by rfl) : CountsInRange t where
  sync := hs ▸ h.sync
  agents := { (h.congr (t := { t with sfa := s.sfa }) hs hd hm rfl).agents with store := hstore }

/-! ## ACQ and SYNC -/

theorem acqStep (h : CountsInRange s) : CountsInRange s.acqStep := by
  unfold State.acqStep
  split
  · exact h
  · split
    · exact h.congr
    · exact h

theorem restart (h : CountsInRange s) : CountsInRange s.restart := by
  have aborted : CountsInRange s.abortFrame := by
    unfold State.abortFrame
    split
    · exact h.ofSync { h.sync with }
    · exact h
  exact aborted.ofSync aborted.sync.restarted

theorem frameEnd (h : CountsInRange s) : CountsInRange s.frameEnd := by
  have corrected : s.correctFrame.sync.InRange := { h.sync with coarse := clampCoarse_range _ }
  exact h.ofSync corrected.nextFrame

theorem symbolDone (h : CountsInRange s) : CountsInRange s.symbolDone := by
  have emitted : CountsInRange s.emitSymbol := h.ofSync { h.sync with }
  unfold State.symbolDone
  split
  · exact emitted.frameEnd
  · next hl => exact emitted.ofSync (emitted.sync.nextSymbol hl)

theorem symbolSample (h : CountsInRange s) (y : Cx Num) : CountsInRange (s.symbolSample y) := by
  have useful : CountsInRange (s.usefulSample y) := h.ofSync { h.sync with }
  unfold State.symbolSample
  split
  · split <;> exact h.ofSync { h.sync with }
  · split
    · exact useful.symbolDone
    · exact useful

theorem captureDone (h : CountsInRange s) : CountsInRange s.captureDone := by
  have started (d : Nat) : CountsInRange (s.startSymbols d) :=
    h.ofSync { h.sync with filling := nofun, symbol := Nat.le_of_ble_eq_true rfl }
  unfold State.captureDone
  split
  · exact restart h.congr
  · split
    · split
      · exact h
      · exact (started _).symbolDone
    · exact started _

/-- A sample is consumed where the search has not timed out and the capture is not complete. -/
theorem consume (h : CountsInRange s)
    (hc : s.sync.phase = .nullSearch ∨ s.sync.phase = .nullExit → s.sync.c < syncTimeout)
    (hw : s.sync.phase = .capture → s.sync.W.length < Tu) (y : Cx Num) : CountsInRange (s.consume y) := by
  unfold State.consume
  dsimp only
  split
  · exact h
  · next hp =>
    have hfill : s.sync.fill < envWin := h.sync.filling hp
    split
    · exact h.ofSync
        { h.sync with
          env := List.length_set.trans h.sync.env, envPtr := envWin_pos, fill := hfill, filling := nofun
          c := Nat.zero_le _ }
    · next hne =>
      exact h.ofSync
        { h.sync with
          env := List.length_set.trans h.sync.env, fill := hfill
          filling := fun _ => Nat.lt_of_le_of_ne hfill hne }
  · next hp => exact h.ofSync (h.sync.slide (hc (.inl hp)) _)
  · next hp => exact h.ofSync (h.sync.slide (hc (.inr hp)) _)
  · next hp =>
    have taken : (s.sync.W ++ [y]).length ≤ Tu := length_append_singleton_le (hw hp) y
    exact h.ofSync { h.sync with window := taken }
  · exact h.symbolSample y

theorem sampleStep (h : CountsInRange s)
    (hc : s.sync.phase = .nullSearch ∨ s.sync.phase = .nullExit → s.sync.c < syncTimeout)
    (hw : s.sync.phase = .capture → s.sync.W.length < Tu) : CountsInRange s.sampleStep := by
  unfold State.sampleStep
  split
  · exact h
  · split
    · exact h
    · next x rest _ =>
      have taken : CountsInRange (s.takeSample x rest) := h.ofSync { h.sync with }
      exact taken.consume hc hw _

theorem syncTimeoutStep (h : CountsInRange s) : CountsInRange s.syncTimeoutStep := restart h.congr

/-- The searches for the null symbol take a sample only before their timeout. -/
theorem searchStep (h : CountsInRange s) (hp : s.sync.phase ≠ .capture) :
    CountsInRange (if s.sync.c = syncTimeout then s.syncTimeoutStep else s.sampleStep) := by
  split
  · exact h.syncTimeoutStep
  · next hc => exact h.sampleStep (fun _ => Nat.lt_of_le_of_ne h.sync.c hc) fun hcap => absurd hcap hp

theorem syncStep (h : CountsInRange s) : CountsInRange s.syncStep := by
  unfold State.syncStep
  split
  · exact h
  · split
    · exact h.ofSync
        { h.sync with envPtr := envWin_pos, fill := Nat.zero_le _, filling := fun _ => envWin_pos }
    · next hp => exact h.sampleStep (by simp [hp]) (by simp [hp])
    · next hp =>
      split
      · exact h.ofSync { h.sync with filling := nofun, c := Nat.zero_le _ }
      · exact h.searchStep (by simp [hp])
    · next hp =>
      split
      · exact h.ofSync { h.sync with filling := nofun, window := Nat.zero_le _ }
      · exact h.searchStep (by simp [hp])
    · next hp =>
      split
      · next hw => exact h.sampleStep (by simp [hp]) fun _ => hw
      · exact h.captureDone
    · next hp => exact h.sampleStep (by simp [hp]) (by simp [hp])

theorem nosampleStep (h : CountsInRange s) : CountsInRange s.nosampleStep := by
  unfold State.nosampleStep
  split
  · exact restart (h.ofSync { h.sync with })
  · exact h

/-! ## DEMOD -/

theorem ficSymbol (h : CountsInRange s) (f : Word) (l : Nat) (b : List SoftBit) :
    CountsInRange (s.ficSymbol f l b) := by
  unfold State.ficSymbol
  dsimp only
  split
  · unfold State.ficEmit
    split <;> exact h.ofDemod h.agents.cif h.agents.cifNum
  · exact h.ofDemod h.agents.cif h.agents.cifNum

theorem cifSymbol (h : CountsInRange s) (a : Selection) (b : List SoftBit) :
    CountsInRange (s.cifSymbol a b) := by
  unfold State.cifSymbol
  dsimp only
  split
  · unfold State.cifEmit
    split <;> exact h.ofDemod cifSymbols_pos (Nat.mod_lt _ (by decide))
  · next hne =>
    have stored : (s.demod.cif ++ [b]).length < cifSymbols := by
      rw [List.length_append]
      exact Nat.lt_of_le_of_ne h.agents.cif hne
    exact h.ofDemod stored h.agents.cifNum

theorem demodEntry (h : CountsInRange s) (e : SymEntry) : CountsInRange (s.demodEntry e) := by
  cases e with
  | abort f => exact h.ofDemod cifSymbols_pos (Nat.succ_pos 3)
  | symbol f l x =>
    show CountsInRange (s.demodSymbol f l x)
    unfold State.demodSymbol
    dsimp only
    split
    · exact h.ofDemod cifSymbols_pos (Nat.succ_pos 3)
    · split
      · exact h
      · split
        · refine ficSymbol ?_ f l _
          exact h.ofDemod h.agents.cif h.agents.cifNum
        · refine cifSymbol ?_ _ _
          exact h.ofDemod h.agents.cif h.agents.cifNum

theorem demodStep (h : CountsInRange s) : CountsInRange s.demodStep := by
  unfold State.demodStep
  split
  · exact h
  · split
    · exact h
    · split
      · exact h
      · exact demodEntry h.congr _

/-! ## MSC -/

/-- The de-interleaver keeps its sixteen vectors and its counts. -/
theorem deinterleave_inRange (h : CountsInRange s) (gen : BitVec 16) (frag : List SoftBit) (n : Nat) :
    CountsInRange { s with msc := (deinterleave (s.msc.adopt gen) frag n).1 } := by
  have adopted : (s.msc.adopt gen).ti.length = interleaverDepth ∧ (s.msc.adopt gen).tiFill ≤ 15 := by
    unfold MscState.adopt
    split
    · exact ⟨h.agents.ti, h.agents.tiFill⟩
    · exact ⟨h.agents.ti, Nat.zero_le _⟩
  obtain ⟨hti, hfill⟩ := adopted
  unfold deinterleave
  dsimp only
  split
  · next hlt =>
    exact ⟨h.sync,
      { h.agents with ti := List.length_set.trans hti, tiW := Nat.mod_lt _ (Nat.succ_pos 15), tiFill := hlt }⟩
  · exact ⟨h.sync,
      { h.agents with ti := List.length_set.trans hti, tiW := Nat.mod_lt _ (Nat.succ_pos 15), tiFill := hfill }⟩

theorem mscStep (h : CountsInRange s) : CountsInRange s.mscStep := by
  unfold State.mscStep
  split
  · exact h
  · split
    · exact h
    · next gen frag _ _ =>
      dsimp only
      split
      · exact h.congr
      · exact (h.deinterleave_inRange gen frag _).congr

/-! ## SFA -/

theorem emitRecord (h : CountsInRange s) (record : List Word) (ready : Event) (info : Word) :
    CountsInRange (s.emitRecord record ready info) := by
  unfold State.emitRecord
  split <;> exact h.congr

theorem processAus (h : CountsInRange s) (w : List Byte) (cw hdr : Nat) (st : Nat → Nat) (is : List Nat) :
    CountsInRange (s.processAus w cw hdr st is) := by
  induction is generalizing s with
  | nil => exact h
  | cons i is ih =>
    refine ih (s := s.processAu w cw hdr i (st i) (st (i + 1))) ?_
    unfold State.processAu
    dsimp only
    split
    · exact h.congr
    · split
      · exact emitRecord h.congr _ _ _
      · exact h.congr

theorem cacheFormat (h : CountsInRange s) (w : List Byte) : CountsInRange (s.cacheFormat w) := by
  unfold State.cacheFormat
  split
  · exact h
  · refine emitRecord ?_ _ _ _
    exact h.ofSfa h.agents.store

/-- A window that passes leaves the frame store empty. -/
theorem passWindow (h : CountsInRange s) (hs : t.sync = s.sync) (hd : t.demod = s.demod) (hm : t.msc = s.msc)
    (w : List Byte) (cw nunc : Nat) : CountsInRange (t.passWindow w cw nunc) := by
  have entered : CountsInRange t.enterSynced := by
    unfold State.enterSynced State.raiseIf
    split <;> exact h.ofSfa (Nat.zero_le _) hs hd hm
  unfold State.passWindow
  split
  · exact entered
  · exact (cacheFormat entered.congr w).processAus _ _ _ _ _

/-- A window that fails loses its oldest payload. -/
theorem failWindow (h : CountsInRange s) (hs : t.sync = s.sync) (hd : t.demod = s.demod) (hm : t.msc = s.msc)
    (hstore : t.sfa.store.length ≤ 5) (fire : Bool) : CountsInRange (t.failWindow fire) := by
  have dropped : (t.sfa.store.drop 1).length ≤ 4 := by
    rw [List.length_drop]
    omega
  unfold State.failWindow State.raiseIf State.countFireFail
  dsimp only
  split <;> split <;> exact h.ofSfa dropped hs hd hm

theorem attemptWindow (h : CountsInRange s) (hs : t.sync = s.sync) (hd : t.demod = s.demod) (hm : t.msc = s.msc)
    (hstore : t.sfa.store.length ≤ 5) (cw : Nat) : CountsInRange (t.attemptWindow cw) := by
  have counted (r : RsWindow) : ∃ ev live, t.countRsWindow r = { t with ev := ev, live := live } := by
    unfold State.countRsWindow State.raiseIf
    split <;> split <;> exact ⟨_, _, rfl⟩
  unfold State.attemptWindow
  dsimp only
  generalize rsWindow t.sfa.store.flatten cw = r
  obtain ⟨ev, live, e⟩ := counted r
  rw [e]
  split
  · exact h.passWindow (t := { t with ev := ev, live := live }) hs hd hm _ _ _
  · exact h.failWindow (t := { t with ev := ev, live := live }) hs hd hm hstore _

theorem assemble (h : CountsInRange s) (bytes : List Byte) (cw : Nat) :
    CountsInRange (s.assemble bytes cw) := by
  have hstore : (s.sfa.store ++ [bytes]).length ≤ 5 :=
    length_append_singleton_le (Nat.lt_succ_of_le h.agents.store) bytes
  unfold State.assemble
  split
  · exact h.attemptWindow (t := s.storePayload bytes) rfl rfl rfl hstore cw
  · next hne =>
    refine h.ofSfa (Nat.le_of_lt_succ (Nat.lt_of_le_of_ne hstore ?_))
    show (s.sfa.store ++ [bytes]).length ≠ cifsPerSuperFrame
    rwa [List.length_append]

theorem sfaStep (h : CountsInRange s) : CountsInRange s.sfaStep := by
  unfold State.sfaStep
  split
  · exact h
  · split
    · exact h
    · next gen bytes rest _ =>
      split
      · exact h.congr
      · refine assemble ?_ bytes _
        unfold State.adoptSfaGen
        split
        · exact h.congr
        · exact h.ofSfa (Nat.zero_le _)

/-! ## CMD, the host and reset -/

theorem commandEffect (h : CountsInRange s) (k : CommandEffect s t) : CountsInRange t := by
  have completed {u : State} (hu : CountsInRange u) (r : ResultCode) (v : Word) :
      CountsInRange (u.complete r v) := hu.congr (by simp) (by simp) (by simp) (by simp)
  cases k with
  | nothing => exact h
  | complete r v => exact completed h r v
  | write a bs r v _ => exact completed h.congr r v
  | hold a _ => exact h.congr
  | pushMscq x r v _ => exact completed h.congr r v
  | pushSfq x r v _ => exact completed h.congr r v

theorem reset : CountsInRange State.reset where
  sync := .reset
  agents :=
    { cif := by decide, cifNum := by decide, ti := by decide, tiW := by decide, tiFill := by decide
      store := by decide }

theorem csrWrite (h : CountsInRange s) (v : Word) (r : Csr) : CountsInRange (s.csrWrite v r) := by
  by_cases hr : r = .ctrl
  · obtain ⟨ctl, ev, e⟩ := s.writeCtrl_cases v
    rw [hr, show s.csrWrite v .ctrl = s.writeCtrl v from rfl, e]
    cases v.getLsbD 3
    · exact h.congr
    · exact reset.congr
  · rw [s.csrWrite_frame v hr]
    exact h.congr

theorem turnsKeep : TurnsKeep CountsInRange where
  beginTurn h := h.congr
  settle h := h.congr (by simp) (by simp) (by simp) (by simp)
  acq h := h.acqStep
  sync h := h.syncStep
  nosample h := h.nosampleStep
  demod h := h.demodStep
  msc h := h.mscStep
  sfa h := h.sfaStep
  cmd k h := h.commandEffect k
  raise _ _ h := h.congr
  answer _ h := h.congr
  csrRead r h := by
    rw [State.csrReadEffect_frame]
    exact h.congr
  csrWrite v r h := h.csrWrite v r
  bufWrite _ h := h.congr
  hardwareReset _ := reset.congr

end Sys2Proof.Claims.CountsInRange

namespace Sys2Proof.Claims

/-- Settles O42: each agent keeps its own counts in their ranges and leaves the others' alone. -/
theorem stepKeepsCountsInRange : Obligations.StepKeepsCountsInRange :=
  fun _ _ h e => CountsInRange.turnsKeep.step h e

end Sys2Proof.Claims
end

section
/-! SUPPORT. The sub-channel commit and the selections it makes (10_state.md R47, R48). -/

namespace Sys2Proof.Machine

/-- A legal bitrate is a positive multiple of its profile's step (42_eep_dispersal.md R302). -/
theorem bitrateLegal_iff {p : Profile} {b : Nat} :
    bitrateLegal p b = true ↔ ∃ m, 1 ≤ m ∧ b = (if p = .A then 8 else 32) * m := by
  cases p
  · simp only [bitrateLegal, if_true, Bool.and_eq_true, beq_iff_eq, decide_eq_true_eq]
    exact ⟨fun ⟨_, _⟩ => ⟨b / 8, by omega, by omega⟩, fun ⟨_, _, _⟩ => by omega⟩
  · simp only [bitrateLegal, reduceCtorEq, if_false, Bool.and_eq_true, beq_iff_eq, decide_eq_true_eq]
    exact ⟨fun ⟨_, _⟩ => ⟨b / 32, by omega, by omega⟩, fun ⟨_, _, _⟩ => by omega⟩

/-- A selection is sound when it fails no check of 10_state.md R48. -/
theorem Selection.sound_iff {a : Selection} : a.Sound ↔ ∀ n, ¬ Claims.FailsCheck a n := by
  constructor
  · rintro ⟨hb, hs, hl⟩ n (⟨-, h⟩ | ⟨-, h⟩ | ⟨-, h⟩)
    · exact h (bitrateLegal_iff.mp hb)
    · exact h hs
    · omega
  · intro h
    refine ⟨bitrateLegal_iff.mpr (by_contra fun hb => h 2 (.inl ⟨rfl, hb⟩)),
      by_contra fun hs => h 3 (.inr (.inl ⟨rfl, hs⟩)), ?_⟩
    exact Nat.le_of_not_lt fun hl => h 4 (.inr (.inr ⟨rfl, hl⟩))

/-- The check reported is one that fails, and one is reported unless the selection is sound. -/
theorem failingCheck_cases (a : Selection) :
    (failingCheck a = none ∧ a.Sound) ∨ ∃ n, failingCheck a = some n ∧ Claims.FailsCheck a n := by
  unfold failingCheck
  split
  · next hb =>
    refine .inr ⟨2, rfl, .inl ⟨rfl, fun h => ?_⟩⟩
    rw [bitrateLegal_iff.mpr h] at hb
    exact absurd hb (by decide)
  · next hb =>
    split
    · next hs => exact .inr ⟨3, rfl, .inr (.inl ⟨rfl, by simpa using hs⟩)⟩
    · next hs =>
      split
      · next hl => exact .inr ⟨4, rfl, .inr (.inr ⟨rfl, hl⟩)⟩
      · next hl => exact .inl ⟨rfl, by simpa using hb, by simpa using hs, Nat.le_of_not_lt hl⟩

theorem stagedSelection_eq_staged (s : State) :
    stagedSelection s.sel (s.sel.act.generation + 1) = Claims.staged s := rfl

/-- Everything a write to `SUBCH_COMMIT` can do (10_state.md R47). -/
theorem State.commit_cases (s : State) (v : Word) :
    (v.getLsbD 0 = false ∧ s.commit v = s) ∨
    (v.getLsbD 0 = true ∧ (Claims.staged s).Sound ∧ s.commit v =
      { s with sel := { s.sel with act := Claims.staged s, rejected := false } }.raise .subchSwap
        ((Claims.staged s).generation.zeroExtend 32)) ∨
    (v.getLsbD 0 = true ∧ ∃ n, Claims.FailsCheck (Claims.staged s) n ∧ s.commit v =
      { s with sel := { s.sel with rejected := true } }.raise .subchReject (BitVec.ofNat 32 n)) := by
  unfold State.commit
  rw [stagedSelection_eq_staged]
  cases hv : v.getLsbD 0
  · exact .inl ⟨rfl, rfl⟩
  · obtain ⟨e, hs⟩ | ⟨n, e, hn⟩ := failingCheck_cases (Claims.staged s)
    · exact .inr (.inl ⟨rfl, hs, by simp [e]⟩)
    · exact .inr (.inr ⟨rfl, n, hn, by simp [e]⟩)

/-- An event raised, in a state that has the events of `s` so far, is recorded. -/
theorem recorded_raise {s u : State} (hu : u.ev = s.ev) (c : Event) (info : Word) :
    Claims.Recorded s (u.raise c info) c.code c.isError info where
  status := by
    rw [State.raise_irqStatus, hu]
    cases c <;> rfl
  enable := by rw [State.raise_irqEnable, hu]
  cause := by rw [State.raise_errCause, hu]
  info := by rw [State.raise_errInfo, hu]

/-! ## Every valid selection stays sound -/

namespace State.SelectionsSound

variable {s t : State}

/-- A state with the same selection and the same copy of it held. -/
theorem congr (h : s.SelectionsSound) (ha : t.sel.act = s.sel.act) (hh : t.cmd.held = s.cmd.held) :
    t.SelectionsSound where
  act := ha ▸ h.act
  held := hh ▸ h.held

/-- A streaming agent changes no selection. -/
theorem pipeline (h : s.SelectionsSound) (k : PipelineOnly s t) : t.SelectionsSound :=
  h.congr (congrArg _ k.sel) (by rw [k.cmd])

theorem commandEffect (h : s.SelectionsSound) (k : CommandEffect s t) : t.SelectionsSound := by
  have completed {u : State} (hu : u.SelectionsSound) (r : ResultCode) (v : Word) :
      (u.complete r v).SelectionsSound :=
    ⟨by simpa using hu.act, fun a ha => hu.held a (State.held_of_complete ha)⟩
  cases k with
  | nothing => exact h
  | complete r v => exact completed h r v
  | write a bs r v _ => exact completed (h.congr rfl rfl : (s.cmdWrite a bs).SelectionsSound) r v
  | hold a ha =>
    refine ⟨h.act, fun b hb => ?_⟩
    obtain rfl : a = b := Option.some.inj hb
    obtain ha | ⟨hv, rfl⟩ := ha
    · exact h.held a ha
    · exact ⟨hv, h.act hv⟩
  | pushMscq x r v _ =>
    exact completed (u := { s with q := { s.q with mscq := s.q.mscq ++ [x] } }) (h.congr rfl rfl) r v
  | pushSfq x r v _ =>
    exact completed (u := { s with q := { s.q with sfq := s.q.sfq ++ [x] } }) (h.congr rfl rfl) r v

theorem commit (h : s.SelectionsSound) (v : Word) : (s.commit v).SelectionsSound := by
  obtain ⟨-, e⟩ | ⟨-, sound, e⟩ | ⟨-, n, -, e⟩ := s.commit_cases v
  · exact e.symm ▸ h
  · rw [e]
    exact ⟨fun _ => sound, h.held⟩
  · rw [e]
    exact h.congr rfl rfl

/-- At reset no selection is valid or held (10_state.md R70; log 5). -/
theorem reset : State.reset.SelectionsSound := ⟨nofun, nofun⟩

theorem csrWrite (h : s.SelectionsSound) (v : Word) (r : Csr) : (s.csrWrite v r).SelectionsSound := by
  cases r with
  | ctrl =>
    obtain ⟨ctl, ev, e⟩ := s.writeCtrl_cases v
    show (s.writeCtrl v).SelectionsSound
    rw [e]
    cases v.getLsbD 3
    · exact h.congr rfl rfl
    · exact reset.congr rfl rfl
  | subchCommit => exact h.commit v
  | iqPush32 => exact h.congr (by rw [State.csrWrite, s.pushIq_frame]) (by rw [State.csrWrite, s.pushIq_frame])
  | iqPush8 => exact h.congr (by rw [State.csrWrite, s.pushIq_frame]) (by rw [State.csrWrite, s.pushIq_frame])
  | cmdGo =>
    refine h.congr (by rw [State.csrWrite, s.cmdGo_frame]) ?_
    show s.cmdGo.cmd.held = s.cmd.held
    unfold State.cmdGo
    split
    · dsimp only
      split
      · rw [State.noteDrain_cmd_held]
      · rfl
    · rfl
  | _ => exact h.congr rfl rfl

theorem turnsKeep : TurnsKeep State.SelectionsSound where
  beginTurn h := h.congr rfl rfl
  settle h := h.congr (by simp) (by simp)
  acq h := h.pipeline (.acqStep _)
  sync h := h.pipeline (.syncStep _)
  nosample h := h.pipeline (.nosampleStep _)
  demod h := h.pipeline (.demodStep _)
  msc h := h.pipeline (.mscStep _)
  sfa h := h.pipeline (.sfaStep _)
  cmd k h := h.commandEffect k
  raise _ _ h := h.congr rfl rfl
  answer _ h := h.congr rfl rfl
  csrRead r h := by
    rw [State.csrReadEffect_frame]
    exact h.congr rfl rfl
  csrWrite v r h := h.csrWrite v r
  bufWrite _ h := h.congr rfl rfl
  hardwareReset _ := reset.congr rfl rfl

end State.SelectionsSound

end Sys2Proof.Machine

namespace Sys2Proof.Claims

open Sys2Proof.Machine

/-- Settles O41: only a commit of staged fields that pass the checks makes a selection, and a command holds only
the one it was checked with. -/
theorem stepKeepsSelectionsSound : Obligations.StepKeepsSelectionsSound :=
  fun _ _ h e => State.SelectionsSound.turnsKeep.step h e

/-- Settles O30, by the three things a commit can do. -/
theorem commitSwapsOrRejects : Obligations.CommitSwapsOrRejects := by
  intro s v t
  have ht : t = s.commit v := s.hostWrite_csr (r := .subchCommit) rfl v
  obtain ⟨hv, e⟩ | ⟨hv, sound, e⟩ | ⟨hv, n, hn, e⟩ := s.commit_cases v
  · refine ⟨fun _ => ht.trans e, fun hv' => ?_, fun hv' => ?_⟩ <;> exact absurd (hv.symm.trans hv') (by decide)
  · refine ⟨fun hv' => absurd (hv'.symm.trans hv) (by decide), fun _ _ => ?_,
      fun _ ⟨n, hn⟩ => absurd hn (Selection.sound_iff.mp sound n)⟩
    rw [ht, e]
    exact ⟨{ recorded_raise rfl .subchSwap _ with info := rfl }, rfl⟩
  · refine ⟨fun hv' => absurd (hv'.symm.trans hv) (by decide), fun _ none => absurd hn (none n), fun _ _ => ?_⟩
    rw [ht, e]
    have recorded := recorded_raise (s := s) (u := { s with sel := { s.sel with rejected := true } }) rfl
      .subchReject (BitVec.ofNat 32 n)
    exact ⟨⟨n, hn, recorded⟩, rfl⟩

end Sys2Proof.Claims
end

section
/-! SUPPORT. The registers: how each word is made of its fields (10_state.md R36–R42), what a read and a write of
each does, the snapshot (R53), `CTRL` and the two resets (R37, R70). -/

namespace Sys2Proof.Machine

open Claims

/-! ## Register words and their fields -/

/-- One more field above the bits a word already has: how a register is read from the lowest field up. -/
theorem setWidth_or_shiftLeft {n m w : Nat} (x : BitVec n) (y : BitVec m) :
    x.setWidth w ||| (y.setWidth w <<< n) = (y ++ x).setWidth w := by
  ext i hi
  simp only [BitVec.getElem_or, BitVec.getElem_shiftLeft, BitVec.getElem_setWidth, BitVec.getLsbD_append]
  by_cases h : i < n
  · simp [h]
  · simp [h, BitVec.getLsbD_of_ge x i (by omega)]

/-- As `setWidth_or_shiftLeft`, over `k` reserved bits. -/
theorem setWidth_or_shiftLeft_gap {n m k w i : Nat} (hi : k + n = i) (x : BitVec n) (y : BitVec m) :
    x.setWidth w ||| (y.setWidth w <<< i) = (y ++ (0#k ++ x)).setWidth w := by
  have hx : x.setWidth w = (0#k ++ x).setWidth w := by
    rw [← setWidth_or_shiftLeft]
    simp
  rw [hx, ← hi, setWidth_or_shiftLeft]

/-- Fields grouped from the lowest up. -/
theorem setWidth_append_assoc {n m k w : Nat} (x : BitVec n) (y : BitVec m) (z : BitVec k) :
    (x ++ y ++ z).setWidth w = (x ++ (y ++ z)).setWidth w := by
  rw [BitVec.append_assoc]
  ext i hi
  simp [BitVec.getElem_setWidth]

/-- The zero field at the top of a register only widens the fields below it. -/
theorem zero_append_eq_setWidth {n k : Nat} (x : BitVec n) : 0#k ++ x = x.setWidth (k + n) := by
  ext i hi
  rw [BitVec.getElem_setWidth, ← BitVec.getLsbD_eq_getElem, BitVec.getLsbD_append]
  split
  · rfl
  · next h => simp [BitVec.getLsbD_of_ge x i (by omega)]

theorem setWidth_append {n m k : Nat} (x : BitVec n) (y : BitVec m) :
    x.setWidth (k + n) ++ y = (x ++ y).setWidth (k + n + m) := by
  ext i hi
  rw [BitVec.getElem_setWidth, ← BitVec.getLsbD_eq_getElem, BitVec.getLsbD_append, BitVec.getLsbD_append]
  split
  · rfl
  · rw [BitVec.getLsbD_setWidth]
    simp
    omega

theorem flagAt_eq (b : Bool) (i : Nat) : flagAt b i = (BitVec.ofBool b).setWidth 32 <<< i := by
  cases b
  · simp [flagAt]
  · rfl

theorem phase_code_eq (p : Phase) : BitVec.ofNat 32 p.code = (phaseCode p).setWidth 32 := by
  cases p <;> rfl

theorem ctrlWord_eq (s : State) :
    s.ctrlWord = 0#27 ++ BitVec.ofBool s.ctl.irqEn ++ 0#3 ++ BitVec.ofBool s.ctl.run := by
  unfold State.ctrlWord
  cases s.ctl.irqEn <;> cases s.ctl.run <;> rfl

theorem not_isEmpty_eq {α : Type} (l : List α) : (!l.isEmpty) = decide (0 < l.length) := by
  cases l <;> simp

theorem statusWord_eq (s : State) : s.statusWord = statusValue s := by
  unfold State.statusWord statusValue
  simp only [phase_code_eq, flagAt_eq, not_isEmpty_eq]
  rw [zero_append_eq_setWidth]
  simp only [setWidth_or_shiftLeft, setWidth_append]
  simp only [setWidth_append_assoc]

theorem cmdStatusWord_eq (s : State) : s.cmdStatusWord = cmdStatusValue s := by
  unfold State.cmdStatusWord cmdStatusValue
  simp only [flagAt_eq, not_isEmpty_eq]
  rw [BitVec.shiftLeft_zero, setWidth_or_shiftLeft, setWidth_or_shiftLeft,
    setWidth_or_shiftLeft_gap (n := 3) (k := 1) rfl, setWidth_or_shiftLeft,
    setWidth_or_shiftLeft_gap (n := 12) (k := 4) rfl]
  refine Eq.trans ?_ (BitVec.setWidth_eq _)
  simp only [setWidth_append_assoc]

/-! ## Reads (10_state.md R36; 20_memory.md R116) -/

/-- The registers whose read has no side effect and whose value the spec gives. -/
def plainRegisters : List Csr :=
  [.id, .ctrl, .status, .irqStatus, .irqEnable, .errCause, .errInfo, .frameCount, .signalLevel, .coarseCorr,
   .fineCorr, .lastIndex, .oscPhase, .subchStage0, .subchStage1, .subchCommit, .subchActive0, .subchActive1,
   .cnt .syncTimeout, .cnt .peakFail, .cnt .nosample, .cnt .frames, .cnt .ficBlocks, .cnt .cifIn,
   .cnt .cifStale, .cnt .rsCorr, .cnt .rsUncorr, .cnt .fireFail, .cnt .sfOk, .cnt .auOk, .cnt .auCrcFail,
   .cnt .auMalformed, .cnt .cmdErr, .cnt .iqOverflow, .cnt .ficDrop, .cnt .auDrop, .cntSnapshot, .iqFree,
   .ficAvail, .auAvail, .cmdW0, .cmdW1, .cmdW2, .cmdW3, .cmdStatus, .cmdResult, .cmdSeq]

theorem subchCommitWord_eq (s : State) : s.csrValue .subchCommit =
    0#15 ++ BitVec.ofBool s.sel.rejected ++ s.sel.act.generation := by
  rw [State.csrValue, flagAt_eq]
  refine (setWidth_or_shiftLeft _ _).trans ?_
  rw [zero_append_eq_setWidth, setWidth_append]

theorem subchActive1Word_eq (s : State) : s.csrValue .subchActive1 =
    0#17 ++ s.sel.act.levelM1 ++ BitVec.ofBool (s.sel.act.profile == .B) ++ 0#1 ++ s.sel.act.bitrate := by
  rw [State.csrValue, depunctParam]
  cases s.sel.act.profile <;> rfl

/-- The list of plain reads of the statement is the registers' values at their offsets. -/
theorem csrReads_eq (s : State) :
    csrReads s = plainRegisters.map fun r => (BitVec.ofNat 20 r.offset, s.csrValue r) := by
  simp only [plainRegisters, List.map_cons, subchCommitWord_eq, subchActive1Word_eq]
  rw [show s.csrValue .ctrl = _ from ctrlWord_eq s, show s.csrValue .status = _ from statusWord_eq s,
    show s.csrValue .cmdStatus = _ from cmdStatusWord_eq s]
  rfl

/-- Only the two pops have a side effect (20_memory.md R116). -/
theorem State.csrReadEffect_plain (s : State) {r : Csr} (hf : r ≠ .ficPop) (ha : r ≠ .auPop) :
    s.csrReadEffect r = s := by
  unfold State.csrReadEffect
  split
  · exact absurd rfl hf
  · exact absurd rfl ha
  · rfl

/-- A 32-bit read at a register's offset. -/
theorem State.hostRead_offset (s after : State) (r : Csr) :
    s.hostRead after (BitVec.ofNat 20 r.offset) .w32 = (s.csrReadEffect r).answer (s.csrValue r) := by
  refine s.hostRead_csr after ?_
  rw [BitVec.toNat_ofNat, Nat.mod_eq_of_lt (r.offset_lt.trans (by decide)), csrAt_offset]

/-- The pop of a word drops the first of the words of all records (40_sync_ofdm.md R245). -/
theorem flatten_popRecordWord (rs : List (List Word)) : (popRecordWord rs).flatten = rs.flatten.drop 1 := by
  fun_induction popRecordWord rs with
  | case1 => rfl
  | case2 rs ih => exact ih
  | case3 => rfl
  | case4 => rfl

/-! ## Writes (10_state.md R35, R36, R38, R40) -/

/-- A register at an offset that is not listed as writable ignores a write. -/
theorem State.csrWrite_readOnly (s : State) (v : Word) (r : Csr) :
    BitVec.ofNat 20 r.offset ∈ writable ∨ s.csrWrite v r = s := by
  cases r with
  | ctrl | irqStatus | irqEnable | subchStage0 | subchStage1 | subchCommit | cntSnapshot | iqPush32 | iqPush8
  | cmdW0 | cmdW1 | cmdW2 | cmdW3 | cmdGo | cmdStatus => exact .inl (by decide)
  | _ => exact .inr rfl

theorem Csr.offset_mem_listedOffsets (r : Csr) : BitVec.ofNat 20 r.offset ∈ listedOffsets := by
  cases r with
  | cnt c => cases c <;> decide
  | _ => decide

/-- The bits of `SUBCH_STAGE0` that are not reserved (10_state.md R36). -/
theorem stage0_mask (v : Word) : v &&& 0x03FFFFFF = 0#6 ++ v.extractLsb' 0 26 := by
  have kept : ∀ i < 32, (0x03FFFFFF : Word).getLsbD i = decide (i < 26) := by decide
  refine BitVec.eq_of_getLsbD_eq fun i hi => ?_
  rw [BitVec.getLsbD_and, kept i hi, BitVec.getLsbD_append, BitVec.getLsbD_extractLsb']
  by_cases h : i < 26 <;> simp [h]

/-- The bits of `SUBCH_STAGE1` that are not reserved (10_state.md R36). -/
theorem stage1_mask (v : Word) :
    v &&& 0x000077FF = 0#17 ++ v.extractLsb' 12 3 ++ 0#1 ++ v.extractLsb' 0 11 := by
  have kept : ∀ i < 32, (0x000077FF : Word).getLsbD i = decide (i < 11 ∨ 12 ≤ i ∧ i < 15) := by decide
  refine BitVec.eq_of_getLsbD_eq fun i hi => ?_
  rw [BitVec.getLsbD_and, kept i hi]
  simp only [BitVec.getLsbD_append, BitVec.getLsbD_extractLsb', BitVec.getLsbD_zero, Nat.sub_sub]
  by_cases h : i < 11
  · simp [h]
  · by_cases hf : 12 ≤ i ∧ i < 15
    · have hin : i - 12 < 3 := by omega
      have hat : 12 + (i - 12) = i := by omega
      simp [h, hf, hin, hat]
      omega
    · have hout : ¬ i - 12 < 3 ∨ i = 11 := by omega
      rcases hout with hout | rfl
      · simp [h, hf, hout]
      · simp

/-! ## Reserved offsets (10_state.md R35) -/

theorem ofNat_offset_of_csrAt {a : HostAddr} {r : Csr} (h : csrAt a.toNat = some r) :
    BitVec.ofNat 20 r.offset = a := by
  rw [offset_of_csrAt h, BitVec.ofNat_toNat, BitVec.setWidth_eq]

theorem State.hostRead_reserved (s after : State) {a : HostAddr} (hlt : a.toNat < 0x1000) (h4 : a.toNat % 4 = 0)
    (h : csrAt a.toNat = none) : s.hostRead after a .w32 = s.answer 0 := by
  simp [State.hostRead, targetOf_csr hlt h4, h]

theorem State.hostWrite_reserved (s : State) {a : HostAddr} (hlt : a.toNat < 0x1000) (h4 : a.toNat % 4 = 0)
    (h : csrAt a.toNat = none) (v : Word) : s.hostWrite a .w32 v = s := by
  simp [State.hostWrite, targetOf_csr hlt h4, h]

/-! ## `CMD_GO` (10_state.md R41) -/

/-- The entry that `CMD_GO` makes of the staged descriptor. -/
def State.stagedEntry (s : State) : CmdEntry :=
  ⟨⟨s.cmd.w0, s.cmd.w1, s.cmd.w2, s.cmd.w3⟩, s.cmd.seq, [], []⟩

/-- The state with that entry queued. -/
def State.enqueued (s : State) : State :=
  { s with cmd := { s.cmd with queue := s.cmd.queue ++ [s.stagedEntry], seq := s.cmd.seq + 1 } }

theorem State.cmdGo_room {s : State} (h : s.cmd.queue.length < cmdqDepth) :
    s.cmdGo = if s.cmd.queue.isEmpty then s.enqueued.noteDrain else s.enqueued := if_pos h

theorem State.cmdGo_full {s : State} (h : cmdqDepth ≤ s.cmd.queue.length) :
    s.cmdGo = { s with cmd := { s.cmd with qfull := true } }.raise .cmdQfull 0 := if_neg (Nat.not_lt.mpr h)

theorem State.noteDrain_of_drainAtHead {s : State} (h : DrainAtHead s.cmd.queue) : s.noteDrain =
    { s with cmd := { s.cmd with drainM := s.q.mscq.length, drainS := s.q.sfq.length } } := by
  obtain ⟨e, rest, hq, hd⟩ := h
  simp [State.noteDrain, hq, hd]

theorem State.noteDrain_of_not_drainAtHead {s : State} (h : ¬ DrainAtHead s.cmd.queue) : s.noteDrain = s := by
  obtain hs | ⟨e, rest, hq, hd, -⟩ := s.noteDrain_cases
  · exact hs
  · exact absurd ⟨e, rest, hq, hd⟩ h

/-! ## The snapshot (10_state.md R53) -/

/-- A register write changes the snapshot only at `CNT_SNAPSHOT`, and at `CTRL` when it resets. -/
theorem State.csrWrite_snap_cases (s : State) (v : Word) (r : Csr) :
    ((s.csrWrite v r).snap = s.snap ∧ (s.csrWrite v r).snapSeq = s.snapSeq) ∨ r = .cntSnapshot ∨
    (r = .ctrl ∧ v.getLsbD 3 = true ∧ (s.csrWrite v r).snap = Counters.reset ∧
      (s.csrWrite v r).snapSeq = 0) := by
  cases r with
  | ctrl =>
    obtain ⟨ctl, ev, e⟩ := s.writeCtrl_cases v
    rw [show s.csrWrite v .ctrl = s.writeCtrl v from rfl, e]
    cases v.getLsbD 3
    · exact .inl ⟨rfl, rfl⟩
    · exact .inr (.inr ⟨rfl, rfl, rfl, rfl⟩)
  | cntSnapshot => exact .inr (.inl rfl)
  | subchCommit =>
    rw [State.csrWrite, s.commit_frame]
    exact .inl ⟨rfl, rfl⟩
  | iqPush32 =>
    rw [State.csrWrite, s.pushIq_frame]
    exact .inl ⟨rfl, rfl⟩
  | iqPush8 =>
    rw [State.csrWrite, s.pushIq_frame]
    exact .inl ⟨rfl, rfl⟩
  | cmdGo =>
    rw [State.csrWrite, s.cmdGo_frame]
    exact .inl ⟨rfl, rfl⟩
  | _ => exact .inl ⟨rfl, rfl⟩

theorem State.hostRead_snap (s after : State) (a : HostAddr) (w : Width) :
    (s.hostRead after a w).snap = s.snap ∧ (s.hostRead after a w).snapSeq = s.snapSeq := by
  obtain ⟨r, v, e⟩ | e := s.hostRead_cases after a w
  · rw [e, s.csrReadEffect_frame]
    exact ⟨rfl, rfl⟩
  · rw [e]
    exact ⟨rfl, rfl⟩

theorem State.hostWrite_snap_cases (s : State) (a : HostAddr) (w : Width) (v : Word) :
    ((s.hostWrite a w v).snap = s.snap ∧ (s.hostWrite a w v).snapSeq = s.snapSeq) ∨
    (a = 0x0FC ∧ w = .w32) ∨
    ((a = 0x004 ∧ w = .w32 ∧ v.getLsbD 3 = true) ∧ (s.hostWrite a w v).snap = Counters.reset ∧
      (s.hostWrite a w v).snapSeq = 0) := by
  obtain ⟨r, ha, hw, e⟩ | ⟨o, -, e⟩ | e | e := s.hostWrite_cases a w v <;> rw [e]
  · obtain kept | rfl | ⟨rfl, hv, reset⟩ := s.csrWrite_snap_cases v r
    · exact .inl kept
    · exact .inr (.inl ⟨BitVec.eq_of_toNat_eq ha, hw⟩)
    · exact .inr (.inr ⟨⟨BitVec.eq_of_toNat_eq ha, hw, hv⟩, reset⟩)
  · exact .inl ⟨rfl, rfl⟩
  · exact .inl ⟨rfl, rfl⟩
  · exact .inl ⟨rfl, rfl⟩

theorem CommandEffect.snap {s t : State} (h : CommandEffect s t) :
    t.snap = s.snap ∧ t.snapSeq = s.snapSeq := by
  cases h <;> simp

/-- What a turn does to the snapshot. -/
theorem runTurn_snap_cases {s t : State} {u : Turn} (h : runTurn u s = .next t) :
    (t.snap = s.snap ∧ t.snapSeq = s.snapSeq) ∨ (∃ v, u = .host (.write 0x0FC .w32 v)) ∨
    ((u = .hardwareReset ∨ ∃ v : Word, u = .host (.write 0x004 .w32 v) ∧ v.getLsbD 3 = true) ∧
      t.snap = Counters.reset ∧ t.snapSeq = 0) := by
  have agent {t' : State} (e : runTurn u s = .next t') (k : PipelineOnly s t') :
      t.snap = s.snap ∧ t.snapSeq = s.snapSeq := by
    obtain rfl : t' = t := Host.Outcome.next.inj (e.symm.trans h)
    exact ⟨k.snap, k.snapSeq⟩
  cases u with
  | acq => exact .inl (agent rfl (.acqStep s))
  | sync => exact .inl (agent rfl (.syncStep s))
  | nosample => exact .inl (agent rfl (.nosampleStep s))
  | demod => exact .inl (agent rfl (.demodStep s))
  | msc => exact .inl (agent rfl (.mscStep s))
  | sfa => exact .inl (agent rfl (.sfaStep s))
  | cmd =>
    obtain ⟨t', e, effect⟩ := cmdStep_effect s
    obtain rfl : t' = t := Host.Outcome.next.inj (e.symm.trans h)
    exact .inl effect.snap
  | hardwareReset =>
    obtain rfl := Host.Outcome.next.inj h
    exact .inr (.inr ⟨.inl rfl, rfl, rfl⟩)
  | host x =>
    obtain rfl := Host.Outcome.next.inj h
    cases x with
    | read a w => exact .inl (s.hostRead_snap s.afterCmd a w)
    | write a w v =>
      obtain kept | ⟨rfl, rfl⟩ | ⟨⟨rfl, rfl, hv⟩, reset⟩ := s.hostWrite_snap_cases a w v
      · exact .inl kept
      · exact .inr (.inl ⟨v, rfl⟩)
      · exact .inr (.inr ⟨.inr ⟨v, rfl, hv⟩, reset⟩)

/-! ## `CTRL` (10_state.md R37) -/

theorem raise_halted_eq_withEvent (s : State) (info : Word) :
    s.raise .halted info = withEvent s 23 false info := rfl

theorem writeCtrl_eq_controlled (s : State) (v : Word) : s.writeCtrl v = controlled s v := by
  unfold State.writeCtrl controlled
  rw [show (if v.getLsbD 3 then s.softReset else s) = if v.getLsbD 3 = true then
    { State.reset with
      buf := s.buf, bufEpoch := s.bufEpoch, hostData := s.hostData, turns := s.turns, tick := s.tick }
    else s from rfl]
  generalize (if v.getLsbD 3 = true then (_ : State) else s) = kept
  have halts : (if v.getLsbD 1 then (kept.setEnables v).stop else kept.setEnables v) =
      if v.getLsbD 1 = true ∧ (kept.setEnables v).ctl.stopReq = false then
        withEvent { kept.setEnables v with
          ctl := { (kept.setEnables v).ctl with stopReq := true, stopped := true } } 23 false 1
      else kept.setEnables v := by
    unfold State.stop
    cases v.getLsbD 1 <;> cases (kept.setEnables v).ctl.stopReq <;> rfl
  dsimp only
  rw [halts]
  rfl

end Sys2Proof.Machine

namespace Sys2Proof.Claims

open Sys2Proof.Machine

/-- Settles O31: of all turns only a write to `CNT_SNAPSHOT` and the resets touch the snapshot, and the end of a
turn does not. -/
theorem snapshotChangesOnlyBySnapshotOrReset : Obligations.SnapshotChangesOnlyBySnapshotOrReset := by
  refine ⟨fun s v hw => ?_, fun s t h => ?_⟩
  · have written : s.beginTurn.hostWrite 0x0FC .w32 v = s.beginTurn.snapshot :=
      s.beginTurn.hostWrite_csr (r := .cntSnapshot) rfl v
    have turn : runTurn s.nextTurn s.beginTurn = .next s.beginTurn.snapshot := by
      rw [hw, ← written]
      rfl
    exact ⟨_, step_of_runTurn turn, by simp, by simp⟩
  · obtain ⟨u, hu, rfl⟩ := runTurn_of_step h
    rw [State.settle_snap, State.settle_snapSeq]
    obtain kept | ⟨v, hv⟩ | reset := runTurn_snap_cases hu
    · exact .inl kept
    · exact .inr (.inl ⟨v, hv⟩)
    · exact .inr (.inr reset)

/-- Settles O29, by the two branches of `CMD_GO`; a DRAIN is noted where it enters an empty CMDQ. -/
theorem cmdGoEnqueuesOrDrops : Obligations.CmdGoEnqueuesOrDrops := by
  intro s v t
  have ht : t = s.cmdGo := s.hostWrite_csr (r := .cmdGo) rfl v
  refine ⟨fun room => ?_, fun full => ?_⟩
  · rw [State.cmdGo_room room] at ht
    by_cases hq : s.cmd.queue = []
    · rw [if_pos (by simp [hq])] at ht
      by_cases hd : DrainAtHead s.enqueued.cmd.queue
      · rw [State.noteDrain_of_drainAtHead hd] at ht
        rw [ht]
        exact ⟨rfl, rfl, fun _ _ => ⟨rfl, rfl⟩, fun h => absurd hd (h.resolve_left fun hne => hne hq)⟩
      · rw [State.noteDrain_of_not_drainAtHead hd] at ht
        rw [ht]
        exact ⟨rfl, rfl, fun _ h => absurd h hd, fun _ => ⟨rfl, rfl⟩⟩
    · rw [if_neg (by simpa using hq)] at ht
      rw [ht]
      exact ⟨rfl, rfl, fun h => absurd h hq, fun _ => ⟨rfl, rfl⟩⟩
  · rw [ht, State.cmdGo_full full]
    exact ⟨recorded_raise (s := s) (u := { s with cmd := { s.cmd with qfull := true } }) rfl .cmdQfull 0, rfl⟩

/-- Settles O33: a plain read leaves the state alone, the two pops remove a word, a write acts on its own
register. -/
theorem csrReadsAndWrites : Obligations.CsrReadsAndWrites := by
  refine ⟨fun s x hx => ?_, fun s => ?_, fun s => s.hostRead_offset s.afterCmd .auPop, fun s a ha => ?_,
    fun s a v hlt h4 => ⟨fun hl => ?_, fun hw => ?_⟩, fun s v => ⟨?_, ?_, ?_, ?_, ?_, ?_, ?_, ?_⟩⟩
  · rw [csrReads_eq] at hx
    obtain ⟨r, hr, rfl⟩ := List.mem_map.mp hx
    have hf : r ≠ .ficPop := fun h => absurd (h ▸ hr) (by decide)
    have ha : r ≠ .auPop := fun h => absurd (h ▸ hr) (by decide)
    rw [s.hostRead_offset, s.csrReadEffect_plain hf ha]
    rfl
  · rw [s.hostRead_csr s.afterCmd (r := .ficPop) rfl]
    refine ⟨rfl, flatten_popRecordWord _, fun w rest h => ?_, fun w v ws rest h => ?_⟩
    · exact congrArg popRecordWord h
    · exact congrArg popRecordWord h
  · simp only [List.mem_cons, List.not_mem_nil, or_false] at ha
    obtain rfl | rfl | rfl := ha
    · exact ⟨_, s.hostRead_offset s.afterCmd .iqPush32⟩
    · exact ⟨_, s.hostRead_offset s.afterCmd .iqPush8⟩
    · exact ⟨_, s.hostRead_offset s.afterCmd .cmdGo⟩
  · cases hr : csrAt a.toNat with
    | none => exact s.hostRead_reserved s.afterCmd hlt h4 hr
    | some r => exact absurd (ofNat_offset_of_csrAt hr ▸ r.offset_mem_listedOffsets) hl
  · cases hr : csrAt a.toNat with
    | none => exact s.hostWrite_reserved hlt h4 hr v
    | some r =>
      obtain hmem | ignored := s.csrWrite_readOnly v r
      · exact absurd (ofNat_offset_of_csrAt hr ▸ hmem) hw
      · rw [s.hostWrite_csr hr, ignored]
  · rw [← stage0_mask]
    exact s.hostWrite_csr (r := .subchStage0) rfl v
  · rw [← stage1_mask]
    exact s.hostWrite_csr (r := .subchStage1) rfl v
  · exact s.hostWrite_csr (r := .cntSnapshot) rfl v
  · exact s.hostWrite_csr (r := .cmdW0) rfl v
  · exact s.hostWrite_csr (r := .cmdW1) rfl v
  · exact s.hostWrite_csr (r := .cmdW2) rfl v
  · exact s.hostWrite_csr (r := .cmdW3) rfl v
  · exact s.hostWrite_csr (r := .cmdStatus) rfl v

/-- Settles O34, by the parts of a `CTRL` write in their order; the resets are the reset state but for what each
keeps. -/
theorem ctrlWritesAndResets : Obligations.CtrlWritesAndResets := by
  have written (s : State) (v : Word) : s.hostWrite 0x004 .w32 v = s.writeCtrl v :=
    s.hostWrite_csr (r := .ctrl) rfl v
  refine ⟨fun s v => (written s v).trans (writeCtrl_eq_controlled s v), fun s v _ a => ?_,
    fun s => ⟨rfl, fun _ => rfl, rfl, nofun⟩⟩
  obtain ⟨ctl, ev, e⟩ := s.writeCtrl_cases v
  rw [written, e]
  split <;> rfl

/-- Settles O5, by unfolding a step into its turn. -/
theorem stepTakesTheListedTurn : Obligations.StepTakesTheListedTurn := by
  intro s u ts h b
  have turn {t : State} (e : runTurn u b = .next t) : step s = .next t.settle := by
    have hb : s.beginTurn = b := by rw [State.beginTurn, h, List.drop_one, List.tail_cons]
    exact step_of_runTurn (by rw [nextTurn_cons h, hb]; exact e)
  refine ⟨?_, ?_, ?_, ?_, ?_, ?_, ?_, ?_, ?_, ?_, ?_⟩
  · rintro rfl; exact turn rfl
  · rintro rfl; exact turn rfl
  · rintro rfl; exact turn rfl
  · rintro rfl; exact turn rfl
  · rintro rfl; exact turn rfl
  · rintro rfl; exact turn rfl
  · rintro rfl; exact turn rfl
  · rintro rfl
    obtain ⟨t, e, -⟩ := cmdStep_effect b
    exact ⟨t, e, turn e⟩
  · rintro rfl hq
    exact turn (cmdStep_nil hq)
  · rintro a w rfl; exact turn rfl
  · rintro a w v rfl; exact turn rfl

/-- Settles O38, field by field: at reset BUF and every queue are empty and every count is 0. -/
theorem resetMeetsTheInvariants : Obligations.ResetMeetsTheInvariants :=
  ⟨⟨.nil, nofun⟩, State.QueuesBounded.reset, State.SelectionsSound.reset, CountsInRange.reset, nofun⟩

end Sys2Proof.Claims
end

section
/-! SUPPORT. BUF as the host and the commands see it: the canonical form (20_memory.md R100), the regions and the
completion of a command (30_encoding.md R150, R152), host reads and writes (20_memory.md R105, R111, R116), the
races they note (R123), and bus errors (R102, R110). -/

namespace Sys2Proof.Machine

open Claims

/-! ## Every turn keeps the canonical form of BUF -/

namespace State.MemoryCanonical

variable {s t : State}

/-- A state with the same bytes written. -/
theorem congr (h : s.MemoryCanonical) (hb : t.buf = s.buf) : t.MemoryCanonical := by
  rw [State.MemoryCanonical, hb]
  exact h

/-- A streaming agent writes nothing to BUF. -/
theorem pipeline (h : s.MemoryCanonical) (k : PipelineOnly s t) : t.MemoryCanonical := h.congr k.buf

/-- A command writes only inside BUF. -/
theorem commandEffect (h : s.MemoryCanonical) (k : CommandEffect s t) : t.MemoryCanonical := by
  cases k with
  | nothing => exact h
  | complete r v => exact h.congr (s.complete_buf r v)
  | write a bs r v inside =>
    have written : (s.cmdWrite a bs).MemoryCanonical := memWf_cmdWrite h inside
    exact written.congr (State.complete_buf _ r v)
  | hold a _ => exact h.congr rfl
  | pushMscq x r v _ => exact h.congr (State.complete_buf _ r v)
  | pushSfq x r v _ => exact h.congr (State.complete_buf _ r v)

theorem reset : State.reset.MemoryCanonical := reset_memWf

/-- A register write leaves BUF alone, a soft reset included (70_reset_and_hazards.md R511). -/
theorem csrWrite (h : s.MemoryCanonical) (v : Word) (r : Csr) : (s.csrWrite v r).MemoryCanonical := by
  by_cases hr : r = .ctrl
  · obtain ⟨ctl, ev, e⟩ := s.writeCtrl_cases v
    rw [hr, show s.csrWrite v .ctrl = s.writeCtrl v from rfl, e]
    cases v.getLsbD 3 <;> exact h.congr rfl
  · rw [s.csrWrite_frame v hr]
    exact h.congr rfl

theorem turnsKeep : TurnsKeep State.MemoryCanonical where
  beginTurn h := h.congr rfl
  settle h := h.congr (State.settle_buf _)
  acq h := h.pipeline (.acqStep _)
  sync h := h.pipeline (.syncStep _)
  nosample h := h.pipeline (.nosampleStep _)
  demod h := h.pipeline (.demodStep _)
  msc h := h.pipeline (.mscStep _)
  sfa h := h.pipeline (.sfaStep _)
  cmd k h := h.commandEffect k
  raise _ _ h := h.congr rfl
  answer _ h := h.congr rfl
  csrRead r h := h.congr (by rw [State.csrReadEffect_frame])
  csrWrite v r h := h.csrWrite v r
  bufWrite inside h := memWf_memStore h inside
  hardwareReset _ := reset.congr rfl

end State.MemoryCanonical

/-! ## Completion (30_encoding.md R150, R151) -/

theorem mem_noCommandError {r : ResultCode} : r ∈ noCommandError ↔ r.isError = false := by
  cases r <;> decide

/-- The info word of a completion, field by field. -/
theorem completionInfo_eq (r : ResultCode) (q : BitVec 16) :
    completionInfo r q = (r.code.zeroExtend 32 <<< 16) ||| q.zeroExtend 32 := by
  rw [completionInfo, zero_append_eq_setWidth, setWidth_append, ← setWidth_or_shiftLeft, BitVec.or_comm]

/-- The events and the counter of a completion, written out. -/
theorem State.completionEvents_eq (s : State) (r : ResultCode) (q : BitVec 16) : s.completionEvents r q =
    { s with
      ev := {
        irqStatus := s.ev.irqStatus ||| BitVec.ofNat 25 (2 ^ 19)
          ||| (if r ∈ noCommandError then 0#25 else BitVec.ofNat 25 (2 ^ 20))
        irqEnable := s.ev.irqEnable
        errCause := if r ∈ noCommandError then s.ev.errCause else 0x114
        errInfo := if r ∈ noCommandError then s.ev.errInfo else
          (r.code.zeroExtend 32 <<< 16) ||| q.zeroExtend 32 }
      live := if r ∈ noCommandError then s.live else { s.live with cmdErr := s.live.cmdErr + 1 } } := by
  simp only [mem_noCommandError, ← completionInfo_eq]
  cases hr : r.isError
  · rw [State.completionEvents_ok hr, if_pos rfl, BitVec.or_zero]
    rfl
  · rw [State.completionEvents_error hr]
    rfl

/-- When a command becomes the head of CMDQ, only the two counts of a DRAIN may change, and only for a DRAIN
(46_control.md R441). -/
theorem State.noteDrain_eq (s : State) : ∃ m n,
    s.noteDrain = { s with cmd := { s.cmd with drainM := m, drainS := n } } ∧
    (DrainAtHead s.cmd.queue → m = s.q.mscq.length ∧ n = s.q.sfq.length) ∧
    (¬ DrainAtHead s.cmd.queue → m = s.cmd.drainM ∧ n = s.cmd.drainS) := by
  by_cases hd : DrainAtHead s.cmd.queue
  · exact ⟨_, _, State.noteDrain_of_drainAtHead hd, fun _ => ⟨rfl, rfl⟩, absurd hd⟩
  · exact ⟨_, _, State.noteDrain_of_not_drainAtHead hd, (absurd · hd), fun _ => ⟨rfl, rfl⟩⟩

/-- `complete` does what a statement calls a completion; before it the command may have written BUF, pushed to a
queue and noted races with the commands behind it. -/
theorem completedAs_complete (s : State) {e e' : CmdEntry} (hseq : e'.seq = e.seq) (rest : List CmdEntry)
    (q : Queues) (buf : Mem) (r : ResultCode) (v : Word) :
    CompletedAs s (State.complete { s with q := q, buf := buf, cmd := { s.cmd with queue := e' :: rest } } r v)
      e rest r v := by
  rw [State.complete_cons rfl, State.completionEvents_eq, hseq]
  obtain ⟨m, n, e, recorded, kept⟩ := State.noteDrain_eq _
  rw [e]
  exact
    { cmd := by rw [CmdState.completed, hseq]
      drainRecorded := recorded
      drainKept := kept
      irqStatus := rfl, irqEnable := rfl, errCause := rfl, errInfo := rfl, counters := rfl, frame := rfl }

/-- A command that only completes touches neither BUF nor a queue. -/
theorem completedOnly_complete {s : State} {e : CmdEntry} {rest : List CmdEntry} (h : s.cmd.queue = e :: rest)
    (r : ResultCode) (v : Word) : CompletedOnly s (s.complete r v) e rest r v := by
  have completed := completedAs_complete s (e := e) rfl rest s.q s.buf r v
  rw [← h] at completed
  exact ⟨completed, s.complete_q r v, s.complete_bufByte r v⟩

/-! ## The checks of a command (30_encoding.md R143, R152) -/

theorem regionOk_iff_inBuf {off len al : Nat} : regionOk off len al = true ↔ InBuf off len al := regionOk_iff

theorem spectrumOk_iff_inBuf {o : BufOffset} : spectrumOk o = true ↔ InBuf o.toNat 16384 8 := regionOk_iff

/-- Every command is checked first: that its PARAM is legal, then that its regions lie in BUF. -/
theorem exec_eq_runCommand (i : Instr) (s : State) : ∃ g run,
    exec i s = .next (s.runCommand i.wellFormed g run) ∧ (g = true ↔ ∀ r ∈ regions i, InBuf r.1 r.2.1 r.2.2) := by
  cases i with
  | nop | injmsc _ | injsf _ | drain => exact ⟨true, _, rfl, by simp [regions]⟩
  | fft _ _ _ | findidx _ | coarse _ => exact ⟨_, _, rfl, by simp [regions, spectrumOk_iff_inBuf]⟩
  | ddemod _ _ _ =>
    exact ⟨_, _, rfl, by simp [regions, spectrumOk_iff_inBuf, regionOk_iff_inBuf, carriers, and_assoc]⟩
  | vitdec _ _ _ | depunct _ _ _ _ _ | descr _ _ _ | rsdec _ _ | sfchk _ _ _ | firecrc _ | crc16 _ _ =>
    exact ⟨_, _, rfl, by simp [regions, regionOk_iff_inBuf, bytesForBits, rsLength]⟩

theorem exec_badAddr {s : State} (h : s.cmd.queue ≠ []) {i : Instr} (hw : i.wellFormed = true)
    (hr : ∃ r ∈ regions i, ¬ InBuf r.1 r.2.1 r.2.2) : exec i s = .next (s.complete .badAddr 0) := by
  obtain ⟨g, run, e, hg⟩ := exec_eq_runCommand i s
  have outside : g = false := by
    obtain ⟨r, hmem, hout⟩ := hr
    exact Bool.eq_false_iff.mpr fun ok => hout (hg.mp ok r hmem)
  rw [e, hw, outside, State.runCommand_badAddr h]

/-! ## Bytes and words (20_memory.md R105) -/

/-- Byte `i` of the word that a list of bytes makes is the `i`-th of them. -/
theorem byteOfWord_wordOfBytes (bs : List Byte) {i : Nat} (hi : i < 4) :
    byteOfWord (wordOfBytes bs) i = bs.getD i 0 := by
  refine BitVec.eq_of_getLsbD_eq fun j hj => ?_
  rw [byteOfWord, wordOfBytes, BitVec.getLsbD_extractLsb']
  simp only [BitVec.getLsbD_append]
  obtain rfl | rfl | rfl | rfl : i = 0 ∨ i = 1 ∨ i = 2 ∨ i = 3 := by omega
  · simp [hj]
  · simp [hj, show ¬ 8 + j < 8 by omega]
  · simp [hj, show ¬ 16 + j < 8 by omega, show ¬ 16 + j - 8 < 8 by omega, show 16 + j - 8 - 8 = j by omega]
  · simp [hj, show ¬ 24 + j < 8 by omega, show ¬ 24 + j - 8 < 8 by omega, show ¬ 24 + j - 8 - 8 < 8 by omega,
      show 24 + j - 8 - 8 - 8 = j by omega]

theorem wordOfBytes_toNat (bs : List Byte) : (wordOfBytes bs).toNat =
    (((bs.getD 3 0).toNat * 256 + (bs.getD 2 0).toNat) * 256 + (bs.getD 1 0).toNat) * 256
      + (bs.getD 0 0).toNat := by
  have append {n : Nat} (x : BitVec n) (b : Byte) : (x ++ b).toNat = x.toNat * 256 + b.toNat := by
    rw [BitVec.toNat_append, ← Nat.shiftLeft_add_eq_or_of_lt b.isLt, Nat.shiftLeft_eq]
  rw [wordOfBytes, append, append, append]

/-- The lanes above the bytes of a narrow access are 0 (log 17). -/
theorem wordOfBytes_lt (w : Width) {bs : List Byte} (h : bs.length = widthBytes w) :
    (wordOfBytes bs).toNat < 256 ^ widthBytes w := by
  have empty {k : Nat} (hk : bs.length ≤ k) : bs.getD k 0 = 0 := List.getD_eq_default _ _ hk
  have byte (k : Nat) : (bs.getD k 0).toNat < 256 := (bs.getD k 0).isLt
  have b0 := byte 0
  have b1 := byte 1
  cases w with
  | w8 =>
    rw [wordOfBytes_toNat, empty (k := 3) (by simp [h, widthBytes]), empty (k := 2) (by simp [h, widthBytes]),
      empty (k := 1) (by simp [h, widthBytes])]
    simpa [widthBytes] using b0
  | w16 =>
    rw [wordOfBytes_toNat, empty (k := 3) (by simp [h, widthBytes]), empty (k := 2) (by simp [h, widthBytes])]
    simp only [widthBytes, BitVec.ofNat_eq_ofNat, BitVec.toNat_ofNat, Nat.zero_mod]
    omega
  | w32 => exact (wordOfBytes bs).isLt

/-! ## Host accesses to BUF (20_memory.md R100, R111) -/

theorem Width.bytes_eq_widthBytes (w : Width) : Width.bytes w = widthBytes w := by
  cases w <;> rfl

theorem widthBytes_le_four (w : Width) : widthBytes w ≤ 4 := by
  cases w <;> decide

theorem targetOf_buf {a o : Nat} {w : Width} (h : IsBufAccess a w o) : targetOf a w = .buf o := by
  obtain ⟨rfl, ho, hal⟩ := h
  have above : ¬ 0x40000 + o < 0x1000 := by omega
  have inside : 0x40000 + o < 0x40000 + bufBytes := Nat.add_lt_add_left ho _
  rw [← Width.bytes_eq_widthBytes] at hal
  rw [targetOf, if_neg above, if_pos ⟨Nat.le_add_right _ _, inside⟩, if_pos hal, Nat.add_sub_cancel_left]

theorem targetOf_busError {a : Nat} {w : Width} (h : IsBusError a w) : targetOf a w = .busError := by
  obtain ⟨hl, hh⟩ | hh | ⟨hl, hbad⟩ | ⟨hl, hh, hal⟩ := h
  · simp [targetOf, Nat.not_lt.mpr hl, Nat.not_le.mpr hh]
  · have past : ¬ a < 0x40000 + bufBytes := Nat.not_lt.mpr hh
    have above : ¬ a < 0x1000 := by omega
    simp [targetOf, above, past]
  · have notCsr : ¬ (w = .w32 ∧ a % 4 = 0) := fun ⟨hw, h4⟩ => hbad.elim (· hw) (· h4)
    rw [targetOf, if_pos hl, if_neg notCsr]
  · have above : ¬ a < 0x1000 := by omega
    simp [targetOf, above, Width.bytes_eq_widthBytes, hal]

section

variable {a : HostAddr} {w : Width} {o : Nat}

theorem State.hostRead_buf (s after : State) (h : IsBufAccess a.toNat w o) : s.hostRead after a w =
    s.answer (wordOfBytes ((List.range (widthBytes w)).map fun i => s.hostByte after (o + i))) := by
  rw [State.hostRead, targetOf_buf h, Width.bytes_eq_widthBytes]

theorem State.hostWrite_buf (s : State) (h : IsBufAccess a.toNat w o) (v : Word) : s.hostWrite a w v =
    (s.noteRace o (widthBytes w)).memWrite o (bytesOfWord (widthBytes w) v) := by
  rw [State.hostWrite, targetOf_buf h, Width.bytes_eq_widthBytes]

theorem State.hostRead_busError (s after : State) (h : IsBusError a.toNat w) :
    s.hostRead after a w = (s.busError a).answer 0 := by
  rw [State.hostRead, targetOf_busError h]

theorem State.hostWrite_busError (s : State) (h : IsBusError a.toNat w) (v : Word) :
    s.hostWrite a w v = s.busError a := by
  rw [State.hostWrite, targetOf_busError h]

end

/-! ## Races (20_memory.md R123; log 3) -/

@[simp] theorem State.noteRace_bufByte (s : State) (a n x : Nat) : (s.noteRace a n).bufByte x = s.bufByte x := rfl

theorem State.noteRace_nil {s : State} (h : s.cmd.queue = []) (a n : Nat) :
    (s.noteRace a n).cmd.queue = [] := by
  simp [State.noteRace, h]

/-- The entry at the head, which executes, is also told which offsets were written. -/
theorem State.noteRace_cons {s : State} {e : CmdEntry} {rest : List CmdEntry} (h : s.cmd.queue = e :: rest)
    (a n : Nat) : (s.noteRace a n).cmd.queue =
      (e.noteReplaced s a n).noteOverwritten a n :: rest.map fun f => f.noteReplaced s a n := by
  simp [State.noteRace, h]

/-- A noted race leaves the commands and their sequence numbers as they are. -/
theorem State.noteRace_commands (s : State) (a n : Nat) :
    (s.noteRace a n).cmd.queue.map (fun e => (e.desc, e.seq)) = s.cmd.queue.map fun e => (e.desc, e.seq) := by
  cases hq : s.cmd.queue with
  | nil => rw [s.noteRace_nil hq]
  | cons e rest =>
    rw [s.noteRace_cons hq, List.map_cons, List.map_map]
    rfl

theorem CmdEntry.mem_noteReplaced (e : CmdEntry) (s : State) (a : Nat) {n i : Nat} (hi : i < n) :
    (a + i, s.bufByte (a + i)) ∈ (e.noteReplaced s a n).raced :=
  List.mem_append_left _ (List.mem_map.mpr ⟨i, List.mem_range.mpr hi, rfl⟩)

/-- Every queued command is told the bytes a host write replaces. -/
theorem State.raced_of_mem_noteRace {s : State} {a n i : Nat} (hi : i < n) {e : CmdEntry}
    (he : e ∈ (s.noteRace a n).cmd.queue) : (a + i, s.bufByte (a + i)) ∈ e.raced := by
  cases hq : s.cmd.queue with
  | nil =>
    rw [s.noteRace_nil hq] at he
    cases he
  | cons f rest =>
    rw [s.noteRace_cons hq] at he
    obtain rfl | he := List.mem_cons.mp he
    · exact f.mem_noteReplaced s a hi
    · obtain ⟨g, -, rfl⟩ := List.mem_map.mp he
      exact g.mem_noteReplaced s a hi

/-- The executing command is told the offsets of a host write. -/
theorem State.overwritten_of_head_noteRace {s : State} {a n i : Nat} (hi : i < n) {e : CmdEntry}
    (he : e ∈ (s.noteRace a n).cmd.queue.head?) : a + i ∈ e.overwritten := by
  cases hq : s.cmd.queue with
  | nil =>
    rw [s.noteRace_nil hq] at he
    cases he
  | cons f rest =>
    rw [s.noteRace_cons hq] at he
    obtain rfl := Option.some.inj he
    exact List.mem_append_left _ (List.mem_map.mpr ⟨i, List.mem_range.mpr hi, rfl⟩)

theorem State.memRead_getElem? (s : State) (a : Nat) {n i : Nat} (h : i < n) :
    (s.memRead a n)[i]? = some (s.cmdByte (a + i)) := by
  rw [List.getElem?_eq_getElem (by simpa using h), s.memRead_getElem]

/-- A byte a command reads is the present one or one noted with it. -/
theorem State.cmdByte_cases {s : State} {e : CmdEntry} {rest : List CmdEntry} (h : s.cmd.queue = e :: rest)
    (a : Nat) : s.cmdByte a = s.bufByte a ∨ (a, s.cmdByte a) ∈ e.raced := by
  have hmem := s.cmdByte_mem_readable a
  simp only [State.readable, h, List.head?_cons, Option.map_some, Option.getD_some, List.mem_cons, List.mem_map,
    List.mem_filter, beq_iff_eq] at hmem
  obtain present | ⟨c, ⟨hc, rfl⟩, hb⟩ := hmem
  · exact .inl present
  · exact .inr (hb ▸ hc)

/-! ## Host reads that race with a command (20_memory.md R123) -/

theorem State.hostByte_cases (s after : State) (a : Nat) :
    s.hostByte after a = s.bufByte a ∨ s.hostByte after a = after.bufByte a := by
  unfold State.hostByte
  split
  · exact .inr rfl
  · exact .inl rfl

theorem State.afterCmd_nil {s : State} (h : s.cmd.queue = []) : s.afterCmd = s := by
  rw [State.afterCmd, cmdStep_nil h]

end Sys2Proof.Machine

namespace Sys2Proof.Claims

open Sys2Proof.Machine

/-- Settles O39: commands and the host write only inside BUF, where `memStore` keeps the canonical form, and
nothing else writes to BUF. -/
theorem stepKeepsMemoryCanonical : Obligations.StepKeepsMemoryCanonical :=
  fun _ _ h e => State.MemoryCanonical.turnsKeep.step h e

/-- Settles O21: the checks find the region, and the completion they end with touches nothing else. -/
theorem regionOutsideBufCompletesBadAddr : Obligations.RegionOutsideBufCompletesBadAddr := by
  intro s e rest i hq hw hr
  exact ⟨_, exec_badAddr (by simp [hq]) hw hr, completedOnly_complete hq .badAddr 0⟩

/-- Settles O24, by what a command may read at an offset and what a host write notes. -/
theorem racedByteReadsOldOrNew : Obligations.RacedByteReadsOldOrNew := by
  refine ⟨fun s a n i e rest hq hi => ?_, fun s a w v o i h hi => ?_⟩
  · rw [s.memRead_getElem? a hi]
    obtain present | noted := s.cmdByte_cases hq (a + i)
    · rw [present]
      exact ⟨.inl rfl, fun _ => rfl⟩
    · exact ⟨.inr ⟨_, noted, rfl⟩, fun unraced => absurd noted (unraced _)⟩
  · rw [s.hostWrite_buf h v]
    exact ⟨fun e he => State.raced_of_mem_noteRace hi he, fun e he => State.overwritten_of_head_noteRace hi he⟩

/-- Settles O25: the write is a `memWrite` of the word's bytes once its races are noted. -/
theorem hostBufWriteChangesOnlyItsBytes : Obligations.HostBufWriteChangesOnlyItsBytes := by
  intro s a w v o h t
  have ht : t = (s.noteRace o (widthBytes w)).memWrite o (bytesOfWord (widthBytes w) v) := s.hostWrite_buf h v
  have length : (bytesOfWord (widthBytes w) v).length = widthBytes w := by simp [bytesOfWord]
  rw [ht]
  exact ⟨{ length := length
           inside := fun i hi => .inl (bufByte_memWrite_inside _ o (bytesOfWord (widthBytes w) v) hi)
           outside := fun x hx => bufByte_memWrite_outside _ o _ (by rwa [length]) },
    rfl, s.noteRace_commands o (widthBytes w)⟩

/-- Settles O26: the answer is the word of the bytes seen, and with CMDQ empty no command leaves others. -/
theorem hostBufReadIsLittleEndian : Obligations.HostBufReadIsLittleEndian := by
  intro s a w o h t
  have ht : t = s.answer (wordOfBytes ((List.range (widthBytes w)).map fun i => s.hostByte s.afterCmd (o + i))) :=
    s.hostRead_buf s.afterCmd h
  have lane {i : Nat} (hi : i < widthBytes w) :
      t.hostData.extractLsb' (8 * i) 8 = s.hostByte s.afterCmd (o + i) := by
    rw [ht]
    refine (byteOfWord_wordOfBytes _ (hi.trans_le (widthBytes_le_four w))).trans ?_
    simp [hi]
  refine ⟨by rw [ht]; rfl, ?_, fun i hi => ⟨?_, fun hq => ?_⟩⟩
  · rw [ht]
    exact wordOfBytes_lt w (by simp)
  · rw [lane hi]
    exact s.hostByte_cases s.afterCmd (o + i)
  · rw [lane hi, State.afterCmd_nil hq]
    exact (s.hostByte_cases s (o + i)).elim id id

/-- Settles O27: such an access has no target, and raises `BUS_ERR` only. -/
theorem badHostAccessIsABusError : Obligations.BadHostAccessIsABusError := by
  intro s a w h
  refine ⟨?_, fun v => ?_⟩
  · rw [s.hostRead_busError s.afterCmd h]
    exact ⟨recorded_raise (s := s) (u := s.answer 0) rfl .busErr (a.zeroExtend 32), rfl⟩
  · rw [s.hostWrite_busError h v]
    exact ⟨recorded_raise rfl .busErr (a.zeroExtend 32), rfl⟩

end Sys2Proof.Claims
end

section
/-! SUPPORT. The encoding of a command (30_encoding.md R140–R148): the fields of a descriptor and of PARAM, and
that the decoder and the encoder undo each other; and the commands that end without doing their work, or wait
(30_encoding.md R144, R150, R152; 46_control.md R441–R443, R450). -/

namespace Sys2Proof

/-! ## The high and the low field of a word -/

theorem highField_eq_zero_iff {k n : Nat} (w : BitVec (k + n)) : w.extractLsb' n k = 0 ↔ w.toNat < 2 ^ n := by
  have fits : w.toNat / 2 ^ n < 2 ^ k := Nat.div_lt_of_lt_mul (by rw [← pow_add, Nat.add_comm n]; exact w.isLt)
  rw [← BitVec.toNat_inj, BitVec.extractLsb'_toNat, Nat.shiftRight_eq_div_pow, Nat.mod_eq_of_lt fits]
  simp

/-- A word whose high field is 0 is its low field under zeros. -/
theorem zero_append_lowField {k n : Nat} {w : BitVec (k + n)} (h : w.extractLsb' n k = 0) :
    0#k ++ w.extractLsb' 0 n = w :=
  calc 0#k ++ w.extractLsb' 0 n = w.extractLsb' n k ++ w.extractLsb' 0 n := by rw [h]; rfl
    _ = w := BitVec.extractLsb'_append_extractLsb'

/-- A single bit is the field of width 1. -/
theorem ofBool_getLsbD {n : Nat} (w : BitVec n) (i : Nat) : BitVec.ofBool (w.getLsbD i) = w.extractLsb' i 1 := by
  ext j hj
  obtain rfl : j = 0 := by omega
  simp

/-! ## The fields of a descriptor (30_encoding.md R140) -/

section
variable (op sub : BitVec 8) (src dst : BufOffset) (param : Word)

@[simp] theorem descriptorOf_op : (descriptorOf op sub src dst param).op = op :=
  BitVec.extractLsb'_append_eq_right

@[simp] theorem descriptorOf_sub : (descriptorOf op sub src dst param).sub = sub := by
  have aboveOp : (0#16 ++ sub ++ op).extractLsb' 8 8 = (0#16 ++ sub).extractLsb' 0 8 :=
    BitVec.extractLsb'_append_eq_of_le (le_refl 8)
  exact aboveOp.trans BitVec.extractLsb'_append_eq_right

@[simp] theorem descriptorOf_src : (descriptorOf op sub src dst param).src = src :=
  BitVec.extractLsb'_append_eq_right

@[simp] theorem descriptorOf_dst : (descriptorOf op sub src dst param).dst = dst :=
  BitVec.extractLsb'_append_eq_right

@[simp] theorem descriptorOf_w3 : (descriptorOf op sub src dst param).w3 = param := rfl

end

theorem Descriptor.op_toNat (d : Descriptor) : d.op.toNat = d.w0.toNat % 256 := by
  simp [Descriptor.op]

/-- The reserved bits of W0, W1 and W2 are 0 exactly when no word exceeds the fields it holds. -/
theorem Descriptor.reservedZero_iff {d : Descriptor} : d.reservedZero = true ↔
    d.w0.toNat < 65536 ∧ d.w1.toNat < 262144 ∧ d.w2.toNat < 262144 := by
  simp only [Descriptor.reservedZero, Bool.and_eq_true, beq_iff_eq, and_assoc]
  exact and_congr (highField_eq_zero_iff (k := 16) (n := 16) d.w0)
    (and_congr (highField_eq_zero_iff (k := 14) (n := 18) d.w1) (highField_eq_zero_iff (k := 14) (n := 18) d.w2))

/-- A descriptor with its reserved bits 0 is made of its fields: they are all its bits. -/
theorem Descriptor.eq_of_fields {d : Descriptor} (reserved : d.reservedZero = true) {op sub : BitVec 8}
    {src dst : BufOffset} {param : Word} (hop : d.op.toNat = op.toNat) (hsub : d.sub = sub) (hsrc : d.src = src)
    (hdst : d.dst = dst) (hparam : d.w3 = param) : descriptorOf op sub src dst param = d := by
  obtain ⟨w0, w1, w2, w3⟩ := d
  obtain rfl := BitVec.eq_of_toNat_eq hop
  subst hsub hsrc hdst hparam
  simp only [Descriptor.reservedZero, Bool.and_eq_true, beq_iff_eq] at reserved
  obtain ⟨⟨h0, h1⟩, h2⟩ := reserved
  have word0 : 0#16 ++ w0.extractLsb' 8 8 ++ w0.extractLsb' 0 8 = w0 := by
    rw [BitVec.append_assoc, BitVec.extractLsb'_append_extractLsb'_eq_extractLsb' (by rfl)]
    exact zero_append_lowField h0
  simp only [descriptorOf, Descriptor.op, Descriptor.sub, Descriptor.src, Descriptor.dst, Descriptor.mk.injEq]
  exact ⟨word0, zero_append_lowField h1, zero_append_lowField h2, trivial⟩

/-! ## The fields of the PARAM of `DEPUNCT` (30_encoding.md R142) -/

section
variable (bitrate : BitVec 11) (profile : Profile) (levelM1 : BitVec 2)

theorem depunctParam_bitrate : (depunctParam bitrate profile levelM1).extractLsb' 0 11 = bitrate :=
  BitVec.extractLsb'_append_eq_right

theorem depunctParam_bit11 : (depunctParam bitrate profile levelM1).getLsbD 11 = false := by
  simp only [depunctParam, BitVec.getLsbD_append]
  simp

theorem depunctParam_profile :
    profileOfBit ((depunctParam bitrate profile levelM1).getLsbD 12) = profile := by
  simp only [depunctParam, BitVec.getLsbD_append]
  cases profile <;> simp [Profile.bit, profileOfBit]

theorem depunctParam_levelM1 : (depunctParam bitrate profile levelM1).extractLsb' 13 2 = levelM1 := by
  simp (disch := decide) only [depunctParam, BitVec.extractLsb'_append_eq_of_le]
  exact BitVec.extractLsb'_append_eq_right

theorem depunctParam_high : (depunctParam bitrate profile levelM1).extractLsb' 15 17 = 0 := by
  simp (disch := decide) only [depunctParam, BitVec.extractLsb'_append_eq_of_le]
  exact BitVec.extractLsb'_eq_self

end

theorem Profile.bit_profileOfBit (b : Bool) : (profileOfBit b).bit = BitVec.ofBool b := by
  cases b <;> rfl

/-- A PARAM word of `DEPUNCT` with its reserved bits 0 is made of its fields. -/
theorem depunctParam_fields {w : Word} (high : w.extractLsb' 15 17 = 0) (bit11 : w.getLsbD 11 = false) :
    depunctParam (w.extractLsb' 0 11) (profileOfBit (w.getLsbD 12)) (w.extractLsb' 13 2) = w := by
  have high' : w.extractLsb' 15 17 = 0#17 := high
  have reserved : 0#1 = w.extractLsb' 11 1 := by rw [← ofBool_getLsbD, bit11]; rfl
  rw [depunctParam, Profile.bit_profileOfBit, ofBool_getLsbD, reserved, ← high']
  iterate 4 rw [BitVec.extractLsb'_append_extractLsb'_eq_extractLsb' (by rfl)]
  exact BitVec.extractLsb'_eq_self

/-! ## Decoding an encoded instruction (30_encoding.md R143, R148) -/

theorem decode_encode (i : Instr) : decode (encode i) = .instr i := by
  cases i with
  | nop | findidx _ | coarse _ | rsdec _ _ | firecrc _ | injmsc _ | injsf _ | drain =>
    simp [encode, decode, accept, descriptorOf_reservedZero]
  | fft inv _ _ => cases inv <;> simp [encode, decode, accept, descriptorOf_reservedZero]
  | ddemod _ _ _ | vitdec _ _ _ | descr _ _ _ | sfchk _ _ _ | crc16 _ _ =>
    -- the width of an append stays a sum, as the library's lemmas about its parts state it
    simp [encode, decode, accept, descriptorOf_reservedZero, BitVec.extractLsb'_append_eq_right,
      BitVec.extractLsb'_append_eq_left, -Nat.reduceAdd]
  | depunct _ _ _ _ _ =>
    simp only [encode, decode, accept, descriptorOf_op, descriptorOf_sub, descriptorOf_src, descriptorOf_dst,
      descriptorOf_w3, descriptorOf_reservedZero, depunctParam_bitrate, depunctParam_bit11, depunctParam_profile,
      depunctParam_levelM1, depunctParam_high]
    simp

/-! ## What a descriptor decodes to (30_encoding.md R144) -/

/-- Everything the decoder can answer. -/
inductive DecodesAs (d : Descriptor) : Decoded → Prop
  | illegal (h : 0x0F ≤ d.op.toNat) : DecodesAs d .illegal
  | badDesc (h : d.op.toNat < 0x0F) : DecodesAs d .badDesc
  | instr {i : Instr} (h : d.op.toNat < 0x0F) (e : encode i = d) : DecodesAs d (.instr i)

/-- A known opcode: the fields accepted are those the encoder writes. -/
theorem DecodesAs.accept {d : Descriptor} {ok : Bool} {i : Instr} {op : Nat} (hop : d.op.toNat = op)
    (known : op < 0x0F) (h : ok = true → encode i = d) : DecodesAs d (accept ok i) := by
  cases ok with
  | false => exact .badDesc (hop ▸ known)
  | true => exact .instr (hop ▸ known) (h rfl)

/-- An arm of `decode` for each opcode: the fields it accepts are all the bits of the descriptor. -/
theorem decode_decodesAs (d : Descriptor) : DecodesAs d (decode d) := by
  simp only [decode]
  split
  -- reserved opcodes
  case h_16 =>
    refine .illegal ?_
    simp only [imp_false] at *
    omega
  all_goals refine .accept ‹_› (by decide) fun ok => ?_
  all_goals simp only [Bool.and_eq_true, beq_iff_eq, and_assoc] at ok
  -- NOP, DRAIN: no operand
  case h_1 | h_15 =>
    obtain ⟨reserved, sub, src, dst, param⟩ := ok
    exact Descriptor.eq_of_fields reserved ‹_› sub src dst param
  -- FFT: SUB is the direction
  case h_2 =>
    obtain ⟨reserved, high, param⟩ := ok
    refine Descriptor.eq_of_fields reserved ‹_› ?_ rfl rfl param
    rw [ofBool_getLsbD]
    exact (zero_append_lowField high).symm
  -- FINDIDX, COARSE, FIRECRC, INJMSC, INJSF: SRC only
  case h_3 | h_4 | h_11 | h_13 | h_14 =>
    obtain ⟨reserved, sub, dst, param⟩ := ok
    exact Descriptor.eq_of_fields reserved ‹_› sub rfl dst param
  -- DDEMOD, VITDEC, DESCR, SFCHK: a PARAM field under reserved bits
  case h_5 | h_6 | h_8 | h_10 =>
    obtain ⟨reserved, sub, high⟩ := ok
    exact Descriptor.eq_of_fields reserved ‹_› sub rfl rfl (zero_append_lowField high).symm
  -- DEPUNCT: the PARAM of four fields
  case h_7 =>
    obtain ⟨reserved, sub, high, bit11⟩ := ok
    exact Descriptor.eq_of_fields reserved ‹_› sub rfl rfl (depunctParam_fields high bit11).symm
  -- RSDEC: no PARAM
  case h_9 =>
    obtain ⟨reserved, sub, param⟩ := ok
    exact Descriptor.eq_of_fields reserved ‹_› sub rfl rfl param
  -- CRC16: no DST
  case h_12 =>
    obtain ⟨reserved, sub, dst, high⟩ := ok
    exact Descriptor.eq_of_fields reserved ‹_› sub rfl dst (zero_append_lowField high).symm

theorem encode_of_decode {d : Descriptor} {i : Instr} (h : decode d = .instr i) : encode i = d := by
  have decoded := decode_decodesAs d
  rw [h] at decoded
  cases decoded with
  | instr _ e => exact e

theorem decode_eq_illegal {d : Descriptor} (h : 0x0F ≤ d.op.toNat) : decode d = .illegal := by
  have decoded := decode_decodesAs d
  cases hd : decode d with
  | illegal => rfl
  | badDesc | instr =>
    rw [hd] at decoded
    cases decoded
    omega

theorem encode_reservedZero (i : Instr) : (encode i).reservedZero = true := by
  cases i <;> exact descriptorOf_reservedZero _ _ _ _ _

/-- With a known opcode, a nonzero reserved bit in W0, W1 or W2 leaves no instruction to decode to. -/
theorem decode_eq_badDesc {d : Descriptor} (known : d.op.toNat < 0x0F)
    (h : 65536 ≤ d.w0.toNat ∨ 262144 ≤ d.w1.toNat ∨ 262144 ≤ d.w2.toNat) : decode d = .badDesc := by
  have decoded := decode_decodesAs d
  cases hd : decode d with
  | badDesc => rfl
  | illegal =>
    rw [hd] at decoded
    cases decoded
    omega
  | instr i =>
    have reserved := encode_reservedZero i
    rw [encode_of_decode hd, Descriptor.reservedZero_iff] at reserved
    omega

end Sys2Proof

namespace Sys2Proof.Machine

open Claims

/-- A command with an illegal PARAM field: its check comes before that of the regions. -/
theorem exec_badDesc {s : State} (h : s.cmd.queue ≠ []) {i : Instr} (hw : i.wellFormed = false) :
    exec i s = .next (s.complete .badDesc 0) := by
  obtain ⟨g, run, e, -⟩ := exec_eq_runCommand i s
  rw [e, hw, State.runCommand_badDesc h]

/-! ## Injecting commands (46_control.md R442, R443) -/

section
variable {s : State} (pushed : State) (value : Nat)

theorem State.inject_stopped (h : s.ctl.stopReq = true) (a : Selection) (full : Bool) :
    s.inject a full pushed value = s.complete .aborted 0 := by
  simp [State.inject, h]

theorem State.inject_full (h : s.ctl.stopReq = false) (a : Selection) :
    s.inject a true pushed value = { s with cmd := { s.cmd with held := some a } } := by
  simp [State.inject, h]

end

section
variable {s : State} {src : BufOffset} {len : Selection → Nat}

theorem State.injectCommand_noSubch (first : s.cmd.held = none) (invalid : s.sel.act.valid = false) (full : Bool)
    (pushed : Selection → State) : s.injectCommand src len full pushed = s.complete .noSubch 0 := by
  simp [State.injectCommand, first, invalid]

theorem State.injectCommand_badAddr (hq : s.cmd.queue ≠ []) (first : s.cmd.held = none)
    (valid : s.sel.act.valid = true) (outside : ¬ InBuf src.toNat (len s.sel.act) 1) (full : Bool)
    (pushed : Selection → State) : s.injectCommand src len full pushed = s.complete .badAddr 0 := by
  have refused : regionOk src.toNat (len s.sel.act) 1 = false :=
    Bool.eq_false_iff.mpr fun ok => outside (regionOk_iff_inBuf.mp ok)
  simp only [State.injectCommand, first, valid, refused]
  exact State.runCommand_badAddr hq _

/-- Past its checks an injecting command goes on with the selection they used. -/
theorem State.injectCommand_checked (hq : s.cmd.queue ≠ []) {a : Selection} (h : InjectsWith s src len a)
    (full : Bool) (pushed : Selection → State) :
    s.injectCommand src len full pushed = s.inject a full (pushed a) (len a) := by
  obtain held | ⟨first, valid, rfl, inside⟩ := h
  · simp [State.injectCommand, held]
  · simp only [State.injectCommand, first, valid, regionOk_iff_inBuf.mpr inside]
    exact State.runCommand_run hq _

/-- The ends of an injecting command that push nothing, one for each check and one for a stop. -/
theorem injecting_ends {e : CmdEntry} {rest : List CmdEntry} (hq : s.cmd.queue = e :: rest) {i : Instr}
    {full : Bool} {pushed : Selection → State} (hi : exec i s = .next (s.injectCommand src len full pushed)) :
    (s.cmd.held = none → s.sel.act.valid = false →
      ∃ t, exec i s = .next t ∧ CompletedOnly s t e rest .noSubch 0) ∧
    (s.cmd.held = none → s.sel.act.valid = true → ¬ InBuf src.toNat (len s.sel.act) 1 →
      ∃ t, exec i s = .next t ∧ CompletedOnly s t e rest .badAddr 0) ∧
    (s.ctl.stopReq = true → ∀ a, InjectsWith s src len a →
      ∃ t, exec i s = .next t ∧ CompletedOnly s t e rest .aborted 0) := by
  have head : s.cmd.queue ≠ [] := by simp [hq]
  rw [hi]
  refine ⟨fun first invalid => ?_, fun first valid outside => ?_, fun stopped a checked => ?_⟩
  · rw [State.injectCommand_noSubch first invalid]
    exact ⟨_, rfl, completedOnly_complete hq .noSubch 0⟩
  · rw [State.injectCommand_badAddr head first valid outside]
    exact ⟨_, rfl, completedOnly_complete hq .badAddr 0⟩
  · rw [State.injectCommand_checked head checked, State.inject_stopped _ _ stopped]
    exact ⟨_, rfl, completedOnly_complete hq .aborted 0⟩

/-- Past its checks, with its queue full and no stop, an injecting command only holds its selection. -/
theorem injecting_waits (hq : s.cmd.queue ≠ []) {a : Selection} (checked : InjectsWith s src len a)
    (running : s.ctl.stopReq = false) {i : Instr} {pushed : Selection → State}
    (hi : exec i s = .next (s.injectCommand src len true pushed)) :
    exec i s = .next { s with cmd := { s.cmd with held := some a } } := by
  rw [hi, State.injectCommand_checked hq checked, State.inject_full _ _ running]

end

theorem exec_injmsc {s : State} (hq : s.cmd.queue ≠ []) (src : BufOffset) : ∃ pushed,
    exec (.injmsc src) s =
      .next (s.injectCommand src softLength (Config.mscqDepth ≤ s.q.mscq.length) pushed) :=
  ⟨_, congrArg _ (State.runCommand_run hq _)⟩

theorem exec_injsf {s : State} (hq : s.cmd.queue ≠ []) (src : BufOffset) : ∃ pushed,
    exec (.injsf src) s =
      .next (s.injectCommand src byteLength (Config.sfqDepth ≤ s.q.sfq.length) pushed) :=
  ⟨_, congrArg _ (State.runCommand_run hq _)⟩

theorem exec_drain_waits {s : State} (hq : s.cmd.queue ≠ []) (running : s.ctl.stopReq = false)
    (left : s.cmd.drainM ≠ 0 ∨ s.cmd.drainS ≠ 0) : exec .drain s = .next s := by
  refine congrArg _ ((State.runCommand_run hq _).trans ?_)
  rw [if_neg (not_and_or.mpr left), running]
  rfl

end Sys2Proof.Machine

namespace Sys2Proof.Claims

open Sys2Proof.Machine

/-- Settles O1, instruction by instruction: each field is read where the encoder writes it. -/
theorem decodeEncodeRoundTrip : Obligations.DecodeEncodeRoundTrip := decode_encode

/-- Settles O2: the decoder accepts an instruction only from the descriptor the encoder writes. -/
theorem encodeOfDecodedDescriptor : Obligations.EncodeOfDecodedDescriptor := fun _ _ => encode_of_decode

/-- Settles O4: the decoder answers `ILLEGAL` for a reserved opcode only, and a descriptor that decodes to an
instruction has no reserved bit set, being encoded. -/
theorem undecodableDescriptorCompletes : Obligations.UndecodableDescriptorCompletes := by
  intro s e rest hq
  rw [← e.desc.op_toNat]
  refine ⟨fun reserved => ?_, fun known malformed => ?_⟩
  · exact ⟨_, cmdStep_illegal hq (decode_eq_illegal reserved), completedOnly_complete hq .illegal 0⟩
  · have badDesc : decode e.desc = .badDesc := by
      obtain h | h | h | h := malformed
      · exact decode_eq_badDesc known (.inl h)
      · exact decode_eq_badDesc known (.inr (.inl h))
      · exact decode_eq_badDesc known (.inr (.inr h))
      · exact h
    exact ⟨_, cmdStep_badDesc hq badDesc, completedOnly_complete hq .badDesc 0⟩

/-- Settles O20: the PARAM check is the first of a command's checks. -/
theorem malformedParamCompletesBadDesc : Obligations.MalformedParamCompletesBadDesc := by
  intro s e rest i hq hw
  exact ⟨_, exec_badDesc (by simp [hq]) hw, completedOnly_complete hq .badDesc 0⟩

/-- Settles O22: the ends of an injecting command, for each of the two. -/
theorem injectingCommandsEndWithoutPushing : Obligations.InjectingCommandsEndWithoutPushing := by
  intro s e rest src hq
  have head : s.cmd.queue ≠ [] := by simp [hq]
  obtain ⟨_, injmsc⟩ := exec_injmsc head src
  obtain ⟨_, injsf⟩ := exec_injsf head src
  obtain ⟨mscNoSubch, mscBadAddr, mscAborted⟩ := injecting_ends hq injmsc
  obtain ⟨sfNoSubch, sfBadAddr, sfAborted⟩ := injecting_ends hq injsf
  exact ⟨fun first invalid => ⟨mscNoSubch first invalid, sfNoSubch first invalid⟩,
    fun first valid => ⟨mscBadAddr first valid, sfBadAddr first valid⟩,
    fun stopped a => ⟨mscAborted stopped a, sfAborted stopped a⟩⟩

/-- Settles O23: past its checks an injecting command finds its queue full, and a DRAIN something it counted. -/
theorem waitingCommandsStayAtTheHead : Obligations.WaitingCommandsStayAtTheHead := by
  intro s e rest src a hq running
  have head : s.cmd.queue ≠ [] := by simp [hq]
  obtain ⟨_, injmsc⟩ := exec_injmsc head src
  obtain ⟨_, injsf⟩ := exec_injsf head src
  refine ⟨fun checked full => ?_, fun checked full => ?_, exec_drain_waits head running⟩
  · exact injecting_waits head checked running (decide_eq_true full ▸ injmsc)
  · exact injecting_waits head checked running (decide_eq_true full ▸ injsf)

/-- Settles O3: each of the five descriptors is the encoding of its command (30_encoding.md R148). -/
theorem decodeReadsWorkedWords : Obligations.DecodeReadsWorkedWords :=
  ⟨decode_encode (.vitdec 0x0000 0x2000 768), decode_encode (.fft true 0x100 0x4000),
    decode_encode (.depunct 0 0x400 8 .A 2), decode_encode (.crc16 0x100 110), decode_encode .drain⟩

end Sys2Proof.Claims
end

section
/-! SUPPORT. The numeric commands (40_sync_ofdm.md R250–R253): what a command that writes BUF completes with, and
what each of the four does past its checks. -/

namespace Sys2Proof.Machine

open Claims

/-! ## Completion after a write (30_encoding.md R150; 20_memory.md R123) -/

/-- What a command leaves in BUF, whichever of its write and a host write made while it executed comes last. -/
theorem wrote_cmdWrite {s : State} {e : CmdEntry} {rest : List CmdEntry} (h : s.cmd.queue = e :: rest)
    (a : Nat) (bs : List Byte) : Wrote s (s.cmdWrite a bs) a bs.length bs e.overwritten where
  length := rfl
  inside i hi := by
    rw [bufByte_cmdWrite_inside s a bs hi]
    refine (s.landed_cases (a + i) bs[i]).imp_right fun ⟨host, kept⟩ => ⟨?_, kept⟩
    simpa [State.overwritten, h] using host
  outside _ hx := bufByte_cmdWrite_outside s a bs hx

/-- What the write of a command notes with the commands behind it. -/
theorem racesNoted_noteWritten (s : State) (rest : List CmdEntry) (a : Nat) (bs : List Byte) :
    RacesNoted s rest (rest.map fun e => e.noteWritten s a bs) a bs where
  same := by
    rw [List.map_map]
    rfl
  raced k e f he hf c := by
    rw [List.getElem?_map, he] at hf
    obtain rfl := Option.some.inj hf
    exact e.mem_noteWritten s a bs c

/-- A command that writes `n` bytes to BUF and completes. -/
theorem completedWriting_complete {s : State} {e : CmdEntry} {rest : List CmdEntry}
    (h : s.cmd.queue = e :: rest) (r : ResultCode) (v : Word) (dst : Nat) {n : Nat} {bs : List Byte}
    (length : bs.length = n) :
    CompletedWriting s ((s.cmdWrite dst bs).complete r v) e rest r v dst n bs := by
  subst length
  have head : (s.cmdWrite dst bs).cmd.queue =
      e.noteWritten s dst bs :: rest.map fun f => f.noteWritten s dst bs := by
    rw [State.cmdWrite_cmd, h, List.map_cons]
  have behind : ((s.cmdWrite dst bs).complete r v).cmd.queue = rest.map fun f => f.noteWritten s dst bs := by
    rw [State.complete_cmd_queue, head, List.tail_cons]
  have wrote := wrote_cmdWrite h dst bs
  refine ⟨?_, by simp, ⟨wrote.length, fun i hi => ?_, fun x hx => ?_⟩, ?_⟩
  · rw [behind]
    have completed := completedAs_complete s (e := e) (e' := e.noteWritten s dst bs) rfl
      (rest.map fun f => f.noteWritten s dst bs) s.q (s.cmdWrite dst bs).buf r v
    rw [← head] at completed
    exact completed
  · rw [State.complete_bufByte]
    exact wrote.inside i hi
  · rw [State.complete_bufByte]
    exact wrote.outside x hx
  · rw [behind]
    exact racesNoted_noteWritten s rest dst bs

/-! ## The four commands past their checks -/

theorem State.runCommand_checked {s : State} (hq : s.cmd.queue ≠ []) {p g : Bool} (hp : p = true) (hg : g = true)
    (run : State) : s.runCommand p g run = run := by
  rw [hp, hg, State.runCommand_run hq]

section
variable {s : State} (hq : s.cmd.queue ≠ []) {src dst cur : BufOffset}
include hq

theorem exec_fft_of_executable {inv : Bool} (h : Executable (.fft inv src dst)) : exec (.fft inv src dst) s =
    .next ((s.cmdWrite dst.toNat (bytesOfCxVector Config.dsp
      (if inv then ifft Config.dsp (s.spectrumAt src) else fft Config.dsp (s.spectrumAt src)))).complete .ok 0) := by
  have inside : (spectrumOk src && spectrumOk dst) = true := by
    simpa [regions, spectrumOk_iff_inBuf] using h.2
  exact congrArg _ (State.runCommand_checked hq rfl inside _)

theorem exec_findidx_of_executable (h : Executable (.findidx src)) : exec (.findidx src) s =
    .next (s.complete (if (findIndex Config.dsp findParams (s.spectrumAt src)).isSome then .ok else .peakFail)
      (BitVec.ofNat 32 ((findIndex Config.dsp findParams (s.spectrumAt src)).getD 0))) := by
  have inside : spectrumOk src = true := by
    simpa [regions, spectrumOk_iff_inBuf] using h.2
  exact congrArg _ (State.runCommand_checked hq rfl inside _)

theorem exec_coarse_of_executable (h : Executable (.coarse src)) : exec (.coarse src) s =
    .next (s.complete .ok (BitVec.ofInt 32
      (coarseEst Config.dsp Config.coarseRange (fft Config.dsp (s.spectrumAt src))))) := by
  have inside : spectrumOk src = true := by
    simpa [regions, spectrumOk_iff_inBuf] using h.2
  exact congrArg _ (State.runCommand_checked hq rfl inside _)

theorem exec_ddemod_of_executable (h : Executable (.ddemod src dst cur)) : exec (.ddemod src dst cur) s =
    .next ((s.cmdWrite dst.toNat
      (softBits Config.dsp Config.softScale (s.spectrumAt src) (s.spectrumAt cur))).complete .ok 0) := by
  have inside : (spectrumOk src && spectrumOk cur && regionOk dst.toNat (2 * carriers) 1) = true := by
    simpa [regions, spectrumOk_iff_inBuf, regionOk_iff_inBuf, carriers, and_assoc] using h.2
  exact congrArg _ (State.runCommand_checked hq h.1 inside _)

end

end Sys2Proof.Machine

namespace Sys2Proof.Claims

open Sys2Proof.Machine

/-- Settles O9: past its checks the command writes the transform, 8 bytes for each of its 2048 entries. -/
theorem fftWritesTheTransform : Obligations.FftWritesTheTransform := by
  intro s e rest inv src dst hq h
  refine ⟨_, exec_fft_of_executable (by simp [hq]) h, completedWriting_complete hq .ok 0 dst.toNat ?_⟩
  cases inv <;> simp [State.spectrumAt, Tu]

/-- Settles O11: past its checks the command writes one soft bit for each part of each active carrier. -/
theorem ddemodWritesTheSoftBits : Obligations.DdemodWritesTheSoftBits := by
  intro s e rest src dst cur hq h
  exact ⟨_, exec_ddemod_of_executable (by simp [hq]) h,
    completedWriting_complete hq .ok 0 dst.toNat (softBits_length _ _ _ _)⟩

/-- Settles O10, `FINDIDX` by the two answers of FindIndex. -/
theorem findidxAndCoarseReturnTheirEstimates : Obligations.FindidxAndCoarseReturnTheirEstimates := by
  intro s e rest src hq
  have head : s.cmd.queue ≠ [] := by simp [hq]
  refine ⟨fun h => ⟨_, exec_findidx_of_executable head h, ?_⟩,
    fun h => ⟨_, exec_coarse_of_executable head h, completedOnly_complete hq .ok _⟩⟩
  rw [show cxVector Config.dsp 2048 (s.memRead src.toNat 16384) = s.spectrumAt src from rfl,
    show (⟨Config.binSize, Config.topK, Config.nearDist⟩ : FindParams) = findParams from rfl]
  cases findIndex Config.dsp findParams (s.spectrumAt src) with
  | none => exact completedOnly_complete hq .peakFail 0
  | some d => exact completedOnly_complete hq .ok (BitVec.ofNat 32 d)

end Sys2Proof.Claims
end

section
/-! SUPPORT. The IQ pushes and the step of ACQ (40_sync_ofdm.md R200–R202). -/

namespace Sys2Proof.Machine

open Claims

/-! ## Events and the agents that may step -/

/-- `raise` records the event of the table of 60_exceptions.md R470, and nothing else. -/
theorem State.raise_eq_withEvent (s : State) (c : Event) (info : Word) :
    s.raise c info = withEvent s c.code c.isError info := by
  cases c <;> rfl

theorem State.streaming_iff {s : State} : s.streaming = true ↔ MayStream s := by
  simp [State.streaming, State.halted]

/-! ## IQ pushes (40_sync_ofdm.md R201) -/

theorem State.pushIq_room {s : State} {bs : List Byte} (running : s.ctl.finishReq = false)
    (room : s.q.iqf.length + bs.length ≤ Config.iqFifoBytes) :
    s.pushIq bs = { s with q := { s.q with iqf := s.q.iqf ++ bs } } := by
  simp [State.pushIq, running, room]

theorem State.pushIq_dropped {s : State} {bs : List Byte}
    (h : s.ctl.finishReq = true ∨ Config.iqFifoBytes < s.q.iqf.length + bs.length) : s.pushIq bs =
      (s.count .iqOverflow (BitVec.ofNat 32 bs.length)).raise .iqOverflow
        (BitVec.ofNat 32 bs.length ||| flagAt s.ctl.finishReq 31) := by
  refine if_neg fun accepted => ?_
  simp only [Bool.and_eq_true, Bool.not_eq_true', decide_eq_true_eq] at accepted
  obtain ⟨running, room⟩ := accepted
  exact h.elim (fun finished => absurd (running.symm.trans finished) nofun) (Nat.not_lt.mpr room)

/-- Bit 31 of the info of a dropped push is the finish flag, above the number of bytes. -/
theorem ofNat_or_flagAt {n : Nat} (h : n < 2 ^ 31) (b : Bool) :
    BitVec.ofNat 32 n ||| flagAt b 31 = BitVec.ofNat 32 (n + if b then 2 ^ 31 else 0) := by
  cases b
  · simp [flagAt]
  · refine BitVec.eq_of_toNat_eq ?_
    have top : (flagAt true 31).toNat = 2 ^ 31 := rfl
    rw [BitVec.toNat_or, top, BitVec.toNat_ofNat, BitVec.toNat_ofNat, Nat.mod_eq_of_lt (by omega), Nat.or_comm,
      if_pos rfl, Nat.mod_eq_of_lt (by omega), Nat.add_comm]
    exact (Nat.two_pow_add_eq_or_of_lt h 1).symm

/-- `STATUS.IQ_ODD` (10_state.md R38). -/
theorem statusWord_iqOdd (s : State) : s.statusWord.getLsbD 14 = (s.q.iqf.length % 2 == 1) := by
  rw [statusWord_eq, statusValue]
  simp only [BitVec.getLsbD_append]
  simp

/-! ## The step of ACQ (40_sync_ofdm.md R200, R202) -/

theorem State.acqStep_pair {s : State} {i q : Byte} {rest : List Byte} (may : MayStream s)
    (hq : s.q.iqf = i :: q :: rest) (room : s.q.sampq.length < Config.sampqDepth) : s.acqStep =
      { s with q := { s.q with iqf := rest, sampq := s.q.sampq ++ [sampleOfBytes Config.dsp i q] } } := by
  simp [State.acqStep, State.streaming_iff.mpr may, hq, room]

theorem State.acqStep_disabled {s : State}
    (h : ¬ MayStream s ∨ s.q.iqf.length < 2 ∨ Config.sampqDepth ≤ s.q.sampq.length) : s.acqStep = s := by
  unfold State.acqStep
  split
  · rfl
  · next enabled =>
    simp only [Bool.or_eq_true, Bool.not_eq_true', decide_eq_true_eq, not_or, Bool.not_eq_false,
      State.streaming_iff, Nat.not_le] at enabled
    obtain ⟨may, room⟩ := enabled
    split
    · next hq =>
      obtain no | few | full := h
      · exact absurd may no
      · simp [hq] at few
      · exact absurd room (Nat.not_lt.mpr full)
    · rfl

end Sys2Proof.Machine

namespace Sys2Proof.Claims

open Sys2Proof.Machine

/-- Settles O28: a push of either width goes to `pushIq`, which appends its bytes or drops them. -/
theorem iqPushIsWholeOrDropped : Obligations.IqPushIsWholeOrDropped := by
  intro s v
  refine ⟨fun bs t written => ?_, rfl, ?_⟩
  · have pushed : t = s.pushIq bs ∧ bs.length < 2 ^ 31 := by
      obtain ⟨rfl, rfl⟩ | ⟨rfl, rfl⟩ := written
      · exact ⟨s.hostWrite_csr (r := .iqPush32) rfl v, by simp⟩
      · exact ⟨s.hostWrite_csr (r := .iqPush8) rfl v, by simp⟩
    obtain ⟨rfl, short⟩ := pushed
    refine ⟨fun ⟨running, room⟩ => State.pushIq_room running room, fun h => ?_⟩
    rw [State.pushIq_dropped h, ofNat_or_flagAt short]
    exact ⟨recorded_raise (s := s) (u := s.count .iqOverflow _) rfl .iqOverflow _, rfl⟩
  · rw [State.csrValue, statusWord_iqOdd, beq_iff_eq]

/-- Settles O44, by the two things a step of ACQ can do. -/
theorem acqConvertsOneBytePair : Obligations.AcqConvertsOneBytePair :=
  fun _ => ⟨fun _ _ _ => State.acqStep_pair, State.acqStep_disabled⟩

end Sys2Proof.Claims
end

section
/-! SUPPORT. The step of SYNC in the words of the statements (40_sync_ofdm.md R203–R227): each operation of SYNC is
the one the statements name, and each phase's step is one of them. -/

namespace Sys2Proof.Machine

open Claims

/-! ## The operations of SYNC -/

theorem State.takeSample_eq_taken (s : State) (x : Cx Num) (rest : List (Cx Num)) :
    s.takeSample x rest = taken s x rest := rfl

/-- `restart()` (40_sync_ofdm.md R211). -/
theorem State.restart_eq_restarted (s : State) : s.restart = restarted s := by
  by_cases hp : s.sync.phase = .symbols
  · simp only [State.restart, State.abortFrame, restarted, if_pos hp]
    rfl
  · simp only [State.restart, State.abortFrame, restarted, if_neg hp]
    rfl

/-- `timeout()` (40_sync_ofdm.md R212). -/
theorem State.syncTimeoutStep_eq_timedOut (s : State) : s.syncTimeoutStep = timedOut s := by
  rw [State.syncTimeoutStep, State.restart_eq_restarted, State.raise_eq_withEvent, phase_code_eq]
  rfl

/-- A failed FindIndex (40_sync_ofdm.md R219). -/
theorem State.peakFailed_eq (s : State) : s.peakFailed = restarted (withEvent
    { s with
      meas := { s.meas with lastIndex := s.meas.lastIndex &&& 0x7FFFFFFF }
      live := { s.live with peakFail := s.live.peakFail + 1 } } 2 true 0) := by
  rw [State.peakFailed, State.restart_eq_restarted, State.raise_eq_withEvent]
  rfl

theorem clampCoarse_eq (c : Int) : clampCoarse c = max (-1024) (min 1023 c) := by
  unfold clampCoarse
  omega

theorem frameCorrection_eq (k : SyncState) : frameCorrection k =
    let r := folded (k.coarse + k.coarsePend)
      (Config.dsp.add k.fine (Config.dsp.mul Config.fineGain (residualOffset k.P)))
    (max (-1024) (min 1023 r.1), r.2) := by
  dsimp only
  rw [← clampCoarse_eq]
  rfl

/-- `frame_end()` (40_sync_ofdm.md R227). -/
theorem State.frameEnd_eq_frameEnded (s : State) : s.frameEnd = frameEnded s := by
  rw [State.frameEnd, State.correctFrame, frameCorrection_eq]
  rfl

/-- `symbol_done()` (40_sync_ofdm.md R221). -/
theorem State.symbolDone_eq_symbolEnded (s : State) : s.symbolDone = symbolEnded s := by
  unfold State.symbolDone
  rw [State.frameEnd_eq_frameEnded]
  rfl

/-! ## A step that consumes a sample (40_sync_ofdm.md R210, R220) -/

section
variable {s : State} {x : Cx Num} {rest : List (Cx Num)} {f : SyncState → Cx Num → Num → SyncState}

theorem consumes_empty (hq : s.q.sampq = []) : consumes s f = s := by
  rw [consumes, hq]

theorem consumes_cons (hq : s.q.sampq = x :: rest) : consumes s f =
    { taken s x rest with sync := f (taken s x rest).sync (rotated s.sync x) (norm (rotated s.sync x)) } := by
  rw [consumes, hq]

/-- A sample step holds while SAMPQ is empty. -/
theorem State.sampleStep_empty (hq : s.q.sampq = []) : s.sampleStep = s := by
  rw [State.sampleStep, hq]
  exact ite_self s

/-- A sample step takes the oldest sample, unless it would complete a symbol with SYMQ full. -/
theorem State.sampleStep_cons (free : (s.sync.phase = .symbols && s.sync.completesSymbol && s.symqFull) = false)
    (hq : s.q.sampq = x :: rest) : s.sampleStep = (taken s x rest).consume (rotated s.sync x) := by
  rw [State.sampleStep, free, if_neg Bool.false_ne_true, hq, ← s.takeSample_eq_taken]
  rfl

end

/-- A sample step that does not complete a symbol is a `consumes`, by what its phase does with the sample. -/
theorem State.sampleStep_eq_consumes {s : State} (f : SyncState → Cx Num → Num → SyncState)
    (incomplete : s.sync.phase = .symbols → s.sync.completesSymbol = false)
    (hf : ∀ x rest, s.q.sampq = x :: rest → ∀ y,
      (taken s x rest).consume y = { taken s x rest with sync := f (taken s x rest).sync y (norm y) }) :
    s.sampleStep = consumes s f := by
  have free : (s.sync.phase = .symbols && s.sync.completesSymbol && s.symqFull) = false := by
    by_cases hp : s.sync.phase = .symbols <;> simp [hp, incomplete]
  cases hq : s.q.sampq with
  | nil => rw [State.sampleStep_empty hq, consumes_empty hq]
  | cons x rest => rw [State.sampleStep_cons free hq, consumes_cons hq, hf x rest hq]

section
variable {s : State} (y : Cx Num)

theorem State.consume_fill (h : s.sync.phase = .fill) : s.consume y = { s with sync :=
    let filled := s.sync.fillWith (norm y)
    if filled.fill = 50 then { filled with phase := .nullSearch, c := 0, envPtr := 0 } else filled } := by
  simp only [State.consume, h]
  split
  · next full => exact (if_pos full).symm ▸ rfl
  · next more => exact (if_neg more).symm ▸ rfl

theorem State.consume_search (h : s.sync.phase = .nullSearch ∨ s.sync.phase = .nullExit) :
    s.consume y = { s with sync := slid s.sync (norm y) } := by
  obtain h | h := h <;> (simp only [State.consume, h]; rfl)

theorem State.consume_capture (h : s.sync.phase = .capture) :
    s.consume y = { s with sync := { s.sync with W := s.sync.W ++ [y] } } := by
  simp only [State.consume, h]

end

/-! ## The step of SYNC, phase by phase (40_sync_ofdm.md R210) -/

section
variable {s : State} (may : MayStream s)
include may

theorem State.syncStep_idle (h : s.sync.phase = .idle) : s.syncStep =
    { s with sync := { s.sync with phase := .fill, fill := 0, envSum := num 0, envPtr := 0 } } := by
  simp only [State.syncStep, State.streaming_iff.mpr may, h]
  rfl

theorem State.syncStep_fill (h : s.sync.phase = .fill) : s.syncStep = s.sampleStep := by
  simp only [State.syncStep, State.streaming_iff.mpr may, h]
  rfl

theorem State.syncStep_nullSearch (h : s.sync.phase = .nullSearch) : s.syncStep =
    if s.sync.nullEntered then { s with sync := { s.sync with phase := .nullExit, c := 0 } }
    else if s.sync.c = syncTimeout then timedOut s else s.sampleStep := by
  simp only [State.syncStep, State.streaming_iff.mpr may, h, State.syncTimeoutStep_eq_timedOut]
  rfl

theorem State.syncStep_nullExit (h : s.sync.phase = .nullExit) : s.syncStep =
    if s.sync.nullLeft then { s with sync := { s.sync with phase := .capture, W := [] } }
    else if s.sync.c = syncTimeout then timedOut s else s.sampleStep := by
  simp only [State.syncStep, State.streaming_iff.mpr may, h, State.syncTimeoutStep_eq_timedOut]
  rfl

theorem State.syncStep_capture (h : s.sync.phase = .capture) :
    s.syncStep = if s.sync.W.length < 2048 then s.sampleStep else s.captureDone := by
  simp only [State.syncStep, State.streaming_iff.mpr may, h]
  rfl

theorem State.syncStep_symbols (h : s.sync.phase = .symbols) : s.syncStep = s.sampleStep := by
  simp only [State.syncStep, State.streaming_iff.mpr may, h]
  rfl

end

/-- A search for the null symbol that goes on takes a sample into its window. -/
theorem State.sampleStep_search {s : State} (h : s.sync.phase = .nullSearch ∨ s.sync.phase = .nullExit) :
    s.sampleStep = consumes s fun k _ e => slid k e :=
  State.sampleStep_eq_consumes _ (fun hp => by simp [hp] at h) fun _ _ _ y => State.consume_search y h

end Sys2Proof.Machine

namespace Sys2Proof.Claims

open Sys2Proof.Machine

/-- Settles O45, phase by phase. -/
theorem syncDetectsTheNullSymbol : Obligations.SyncDetectsTheNullSymbol := by
  intro s may
  refine ⟨State.syncStep_idle may, fun fill => ?_, fun search => ?_, fun leave => ?_, fun capture more => ?_⟩
  · rw [State.syncStep_fill may fill]
    exact State.sampleStep_eq_consumes _ (by simp [fill]) fun _ _ _ y => State.consume_fill y fill
  · rw [State.syncStep_nullSearch may search, State.sampleStep_search (.inl search)]
    rfl
  · rw [State.syncStep_nullExit may leave, State.sampleStep_search (.inr leave)]
    rfl
  · rw [State.syncStep_capture may capture, if_pos more]
    exact State.sampleStep_eq_consumes _ (by simp [capture]) fun _ _ _ y => State.consume_capture y capture

end Sys2Proof.Claims
end

section
/-! SUPPORT. The end of a capture and the samples of a symbol (40_sync_ofdm.md R210, R218–R221). -/

namespace Sys2Proof.Machine

open Claims

variable {s : State}

theorem State.symqFull_iff : s.symqFull = true ↔ Config.symqDepth ≤ s.q.symq.length := decide_eq_true_iff

/-! ## The end of a capture (40_sync_ofdm.md R219) -/

theorem State.captureDone_failed (h : findIndex Config.dsp findParams s.sync.W = none) :
    s.captureDone = s.peakFailed := by
  simp only [State.captureDone, h]

/-- At index 0 the window is all of symbol 1, which ends at once. -/
theorem State.captureDone_found (full : s.sync.W.length = 2048) {d : Nat}
    (h : findIndex Config.dsp findParams s.sync.W = some d) : s.captureDone =
      if d = 0 then (if s.q.symq.length < Config.symqDepth then symbolEnded (s.startSymbols d) else s)
      else s.startSymbols d := by
  have whole : (s.sync.W.drop d).length = Tu ↔ d = 0 := by
    rw [List.length_drop, full, Tu]
    omega
  simp only [State.captureDone, h, whole, State.symqFull_iff, State.symbolDone_eq_symbolEnded]
  congr 1
  rw [← ite_not]
  simp only [Nat.not_le]

/-! ## The samples of a symbol (40_sync_ofdm.md R220) -/

section
variable (hp : s.sync.phase = .symbols) (y : Cx Num)
include hp

theorem State.consume_guard (h : s.sync.part = .guard) : s.consume y = { s with sync :=
    if s.sync.G.length + 1 = 504 then { s.sync with G := s.sync.G ++ [y], part := .useful, S := [] }
    else { s.sync with G := s.sync.G ++ [y] } } := by
  simp only [State.consume, hp, State.symbolSample, h]
  split
  · next last => exact (if_pos last).symm ▸ rfl
  · next more => exact (if_neg more).symm ▸ rfl

theorem State.consume_useful (h : s.sync.part = .useful) (more : s.sync.S.length + 1 ≠ 2048) :
    s.consume y = s.usefulSample y := by
  simp only [State.consume, hp, State.symbolSample, h]
  exact if_neg more

theorem State.consume_last (h : s.sync.part = .useful) (last : s.sync.S.length + 1 = 2048) :
    s.consume y = symbolEnded (s.usefulSample y) := by
  simp only [State.consume, hp, State.symbolSample, h, State.symbolDone_eq_symbolEnded]
  exact if_pos last

end

theorem SyncState.completesSymbol_iff {k : SyncState} :
    k.completesSymbol = true ↔ k.part = .useful ∧ k.S.length + 1 = 2048 := by
  simp [SyncState.completesSymbol, Tu]

/-- The last sample of a symbol is not taken while SYMQ is full. -/
theorem State.sampleStep_full (hp : s.sync.phase = .symbols) (last : s.sync.completesSymbol = true)
    (full : s.symqFull = true) : s.sampleStep = s := by
  simp [State.sampleStep, hp, last, full]

/-- With room in SYMQ the last sample of a symbol is taken, and ends it. -/
theorem State.sampleStep_last (hp : s.sync.phase = .symbols) (last : s.sync.completesSymbol = true)
    (room : s.symqFull = false) (available : s.q.sampq ≠ []) :
    s.sampleStep = symbolEnded (consumes s fun k y _ => { k with S := k.S ++ [y] }) := by
  obtain ⟨x, rest, hq⟩ := List.exists_cons_of_ne_nil available
  obtain ⟨useful, length⟩ := SyncState.completesSymbol_iff.mp last
  have free : (s.sync.phase = .symbols && s.sync.completesSymbol && s.symqFull) = false := by
    rw [room, Bool.and_false]
  rw [State.sampleStep_cons free hq, consumes_cons hq, State.consume_last (s := taken s x rest) hp _ useful length]
  rfl

end Sys2Proof.Machine

namespace Sys2Proof.Claims

open Sys2Proof.Machine

/-- Settles O46: the capture by the answer of FindIndex, a symbol by its part and by whether it is complete. -/
theorem syncEmitsSymbolsAndCorrects : Obligations.SyncEmitsSymbolsAndCorrects := by
  intro s may
  refine ⟨fun capture full => ?_, fun symbols guard => ?_, fun symbols useful => ⟨fun more => ?_, fun last => ?_⟩⟩
  · rw [State.syncStep_capture may capture, if_neg (by omega),
      show (⟨Config.binSize, Config.topK, Config.nearDist⟩ : FindParams) = findParams from rfl]
    cases h : findIndex Config.dsp findParams s.sync.W with
    | none => exact (State.captureDone_failed h).trans s.peakFailed_eq
    | some d => exact State.captureDone_found full h
  · rw [State.syncStep_symbols may symbols]
    refine State.sampleStep_eq_consumes _ (fun _ => ?_) fun x rest _ y => ?_
    · simp [SyncState.completesSymbol, guard]
    · exact State.consume_guard (s := taken s x rest) symbols y guard
  · rw [State.syncStep_symbols may symbols]
    refine State.sampleStep_eq_consumes _ (fun _ => ?_) fun x rest _ y => ?_
    · exact Bool.eq_false_iff.mpr fun h => more (SyncState.completesSymbol_iff.mp h).2
    · exact State.consume_useful (s := taken s x rest) symbols y useful more
  · have complete := SyncState.completesSymbol_iff.mpr ⟨useful, last⟩
    rw [State.syncStep_symbols may symbols]
    refine ⟨?_, fun room available => ?_⟩
    · rintro (full | empty)
      · exact State.sampleStep_full symbols complete (State.symqFull_iff.mpr full)
      · exact State.sampleStep_empty empty
    · have free : s.symqFull = false := Bool.eq_false_iff.mpr fun h => Nat.not_le.mpr room (State.symqFull_iff.mp h)
      exact State.sampleStep_last symbols complete free available

end Sys2Proof.Claims
end

section
/-! SUPPORT. The step of DEMOD (40_sync_ofdm.md R230–R244): when it takes the entry at the head of SYMQ, what it
does with each kind of entry, and the pushes to FICQ and MSCQ. -/

namespace Sys2Proof.Machine

open Claims

/-! ## The head of SYMQ (40_sync_ofdm.md R230) -/

section
variable {s : State} (may : MayStream s)
include may

theorem State.demodStep_empty (hq : s.q.symq = []) : s.demodStep = s := by
  simp [State.demodStep, State.streaming_iff.mpr may, hq]

variable {e : SymEntry} {rest : List SymEntry} (hq : s.q.symq = e :: rest)
include hq

/-- The entry is taken unless it would push to a full MSCQ. -/
theorem State.demodStep_takes (room : s.demodPushes e = true → s.q.mscq.length < Config.mscqDepth) :
    s.demodStep = { s with q := { s.q with symq := rest } }.demodEntry e := by
  have free : (s.demodPushes e && Config.mscqDepth ≤ s.q.mscq.length) = false := by
    simpa using room
  simp [State.demodStep, State.streaming_iff.mpr may, hq, free]

theorem State.demodStep_holds (pushes : s.demodPushes e = true) (full : Config.mscqDepth ≤ s.q.mscq.length) :
    s.demodStep = s := by
  simp [State.demodStep, State.streaming_iff.mpr may, hq, pushes, full]

end

/-- An entry pushes to MSCQ when it is the last symbol of a CIF and a selection is valid (40_sync_ofdm.md R230,
R242). -/
theorem State.demodPushes_iff {s : State} {f : Word} {l : Nat} {x : List (Cx Num)} :
    s.demodPushes (.symbol f l x) = true ↔ l ≠ 1 ∧ s.demod.zvalid = true ∧ f = s.demod.dfseq ∧
      ¬ (2 ≤ l ∧ l ≤ 4) ∧ s.demod.cif.length + 1 = 18 ∧ s.sel.act.valid = true := by
  simp only [State.demodPushes, cifSymbols, Bool.and_eq_true, bne_iff_ne, beq_iff_eq, Bool.not_eq_true',
    ← Bool.not_eq_true, decide_eq_true_eq, and_assoc]

/-! ## A symbol (40_sync_ofdm.md R230) -/

section
variable {s : State} {f : Word} {l : Nat} (x : List (Cx Num))

theorem State.demodSymbol_reference : s.demodSymbol f 1 x = { s with demod :=
    { zprev := fft Config.dsp x, zvalid := true, dfseq := f, fic := [], cif := [], cifNum := 0 } } := rfl

theorem State.demodSymbol_discarded (hl : l ≠ 1) (h : s.demod.zvalid = false ∨ f ≠ s.demod.dfseq) :
    s.demodSymbol f l x = s := by
  have stale : (!s.demod.zvalid || f != s.demod.dfseq) = true := by
    simpa using h
  rw [State.demodSymbol, if_neg hl, if_pos stale]

variable (hz : s.demod.zvalid = true) (hf : f = s.demod.dfseq)
include hz hf

theorem State.demodSymbol_fic (hl : 2 ≤ l ∧ l ≤ 4) : s.demodSymbol f l x =
    { s with demod := { s.demod with zprev := fft Config.dsp x } }.ficSymbol f l
      (softBits Config.dsp Config.softScale s.demod.zprev (fft Config.dsp x)) := by
  simp [State.demodSymbol, hz, hf, hl, show l ≠ 1 by omega]

theorem State.demodSymbol_cif (hl : 5 ≤ l) : s.demodSymbol f l x =
    { s with demod := { s.demod with zprev := fft Config.dsp x } }.cifSymbol s.sel.act
      (softBits Config.dsp Config.softScale s.demod.zprev (fft Config.dsp x)) := by
  simp [State.demodSymbol, hz, hf, show l ≠ 1 by omega, show ¬ l ≤ 4 by omega]

end

/-! ## FIC symbols (40_sync_ofdm.md R230, R244) -/

theorem wordsOfBytes_eq_packedWords (bs : List Byte) : wordsOfBytes bs = packedWords bs := by
  refine List.map_congr_left fun w _ => ?_
  simp only [wordOfBytes, byteAt, List.getD_eq_getElem?_getD, List.getElem?_drop, Nat.add_zero]

/-- `fic_emit(f)` (40_sync_ofdm.md R244). -/
theorem State.ficEmit_eq (s : State) (f : Word) : s.ficEmit f =
    if s.q.ficq.length < Config.ficqDepth then
      withEvent { s with
        q := { s.q with ficq := s.q.ficq ++ [(0xF1#8 ++ f.extractLsb' 0 24) ::
          packedWords ((List.range 9216).map fun j => s.demod.fic.flatten.getD j 0)] }
        live := { s.live with ficBlocks := s.live.ficBlocks + 1 } } 4 false f
    else withEvent { s with live := { s.live with ficDrop := s.live.ficDrop + 1 } } 5 true f := by
  rw [State.ficEmit, State.raise_eq_withEvent, State.raise_eq_withEvent, ficRecord, wordsOfBytes_eq_packedWords]
  rfl

theorem State.ficSymbol_more {s : State} {f : Word} {l : Nat} (hl : l ≠ 4) (b : List SoftBit) :
    s.ficSymbol f l b = { s with demod := { s.demod with fic := s.demod.fic.take (l - 2) ++ [b] } } := if_neg hl

theorem State.ficSymbol_last (s : State) (f : Word) (b : List SoftBit) : s.ficSymbol f 4 b =
    { s with demod := { s.demod with fic := s.demod.fic.take 2 ++ [b] } }.ficEmit f := rfl

/-! ## CIF symbols (40_sync_ofdm.md R230, R238, R242) -/

section
variable {s : State} (a : Selection) (b : List SoftBit)

theorem State.cifSymbol_more (h : s.demod.cif.length + 1 ≠ 18) :
    s.cifSymbol a b = { s with demod := { s.demod with cif := s.demod.cif ++ [b] } } := if_neg h

variable {a} (last : s.demod.cif.length + 1 = 18)
include last

theorem State.cifSymbol_unselected (hv : a.valid = false) :
    s.cifSymbol a b = { s with demod := { s.demod with cif := [], cifNum := (s.demod.cifNum + 1) % 4 } } := by
  simp only [State.cifSymbol, cifSymbols, if_pos last, State.cifEmit, hv]
  rfl

theorem State.cifSymbol_selected (hv : a.valid = true) : s.cifSymbol a b = { s with
    demod := { s.demod with cif := [], cifNum := (s.demod.cifNum + 1) % 4 }
    q := { s.q with mscq := s.q.mscq ++ [(a.generation, cifFragment a (s.demod.cif ++ [b]).flatten)] } } := by
  simp only [State.cifSymbol, cifSymbols, if_pos last, State.cifEmit, hv]
  rfl

end

end Sys2Proof.Machine

namespace Sys2Proof.Claims

open Sys2Proof.Machine

/-- Settles O48, by the kinds of entry: only the last symbol of a CIF can hold. -/
theorem demodStepTakesOneEntry : Obligations.DemodStepTakesOneEntry := by
  intro s may
  refine ⟨State.demodStep_empty may, ?_⟩
  intro e rest hq p
  refine ⟨fun f marker => ?_, ?_⟩
  · subst marker
    exact State.demodStep_takes may hq nofun
  intro f l x symbol Z b
  subst symbol
  have takes (other : ¬ s.demodPushes (.symbol f l x) = true) : s.demodStep = p.demodSymbol f l x :=
    State.demodStep_takes may hq fun pushes => absurd pushes other
  refine ⟨fun hl => ?_, fun hl stale => ?_, fun hz hf => ?_⟩
  · subst hl
    exact (takes (by simp [State.demodPushes_iff])).trans (State.demodSymbol_reference x)
  · have other : ¬ s.demodPushes (.symbol f l x) = true := fun pushes => by
      obtain ⟨-, hz, hf, -⟩ := State.demodPushes_iff.mp pushes
      simp [hz, hf] at stale
    exact (takes other).trans (State.demodSymbol_discarded x hl stale)
  have fic := fun hl => State.demodSymbol_fic (s := p) (l := l) x hz hf hl
  have cif := fun hl => State.demodSymbol_cif (s := p) (l := l) x hz hf hl
  refine ⟨fun hl => ?_, fun hl => ?_, fun hl more => ?_,
    fun hl last => ⟨fun hv => ?_, fun hv room => ?_, fun hv full => ?_⟩⟩
  · rw [takes (by simp only [State.demodPushes_iff]; omega), fic (by omega), State.ficSymbol_more (by omega)]
  · subst hl
    rw [takes (by simp [State.demodPushes_iff]), fic (by omega), State.ficSymbol_last]
    exact State.ficEmit_eq _ f
  · rw [takes (by simp [State.demodPushes_iff, more]), cif hl]
    exact State.cifSymbol_more _ _ more
  · rw [takes (by simp [State.demodPushes_iff, hv]), cif hl]
    exact State.cifSymbol_unselected _ last hv
  · rw [State.demodStep_takes may hq fun _ => room]
    exact (cif hl).trans (State.cifSymbol_selected _ last hv)
  · refine State.demodStep_holds may hq (State.demodPushes_iff.mpr ?_) full
    exact ⟨by omega, hz, hf, by omega, last, hv⟩

end Sys2Proof.Claims
end

section
/-! SUPPORT. The no-samples step (40_sync_ofdm.md R229), and the turns that may touch the state of SYNC: its own
two, and the resets. -/

namespace Sys2Proof.Machine

open Claims

/-! ## The no-samples step (40_sync_ofdm.md R229) -/

theorem State.nosampleEnabled_iff {s : State} : s.nosampleEnabled = true ↔
    MayStream s ∧ s.sync.phase ≠ .idle ∧ s.q.sampq = [] ∧ s.q.iqf.length < 2 ∧ s.sync.nsArmed = true ∧
      s.ctl.finishReq = false ∧ ¬ (s.sync.phase = .symbols ∧ Config.symqDepth ≤ s.q.symq.length) := by
  simp only [State.nosampleEnabled, Bool.and_eq_true, State.streaming_iff, bne_iff_ne, List.isEmpty_iff,
    decide_eq_true_eq, Bool.not_eq_true', ← Bool.not_eq_true, beq_iff_eq, State.symqFull_iff, and_assoc]

theorem State.nosampleStep_enabled {s : State} (h : s.nosampleEnabled = true) : s.nosampleStep =
    restarted (withEvent
      { s with
        live := { s.live with nosample := s.live.nosample + 1 }
        sync := { s.sync with nsArmed := false } } 3 true ((phaseCode s.sync.phase).setWidth 32)) := by
  rw [State.nosampleStep, if_pos h, State.restart_eq_restarted, State.raise_eq_withEvent, phase_code_eq]
  rfl

theorem State.nosampleStep_disabled {s : State} (h : ¬ s.nosampleEnabled = true) : s.nosampleStep = s := if_neg h

/-- Disarmed, it does nothing. -/
theorem State.nosampleStep_disarmed {s : State} (h : s.sync.nsArmed = false) : s.nosampleStep = s :=
  State.nosampleStep_disabled fun enabled => by
    obtain ⟨-, -, -, -, armed, -⟩ := State.nosampleEnabled_iff.mp enabled
    exact absurd (armed.symm.trans h) nofun

/-- The step that fires disarms itself. -/
theorem State.nosampleStep_disarms {s : State} (h : s.nosampleEnabled = true) :
    s.nosampleStep.sync.nsArmed = false := by
  rw [State.nosampleStep_enabled h]
  rfl

theorem State.nosampleStep_idem (s : State) : s.nosampleStep.nosampleStep = s.nosampleStep := by
  by_cases h : s.nosampleEnabled = true
  · exact State.nosampleStep_disarmed (State.nosampleStep_disarms h)
  · rw [State.nosampleStep_disabled h, State.nosampleStep_disabled h]

/-! ## What a step of SYNC does to SAMPQ and to the flag that arms the no-samples step (40_sync_ofdm.md R203) -/

theorem symbolEnded_armed (s : State) :
    (symbolEnded s).sync.nsArmed = s.sync.nsArmed ∧ (symbolEnded s).q.sampq = s.q.sampq := by
  unfold symbolEnded
  dsimp only
  split <;> exact ⟨rfl, rfl⟩

theorem State.captureDone_armed (s : State) : s.captureDone.sync.nsArmed = s.sync.nsArmed := by
  unfold State.captureDone
  split
  · rw [s.peakFailed_eq]
    rfl
  · split
    · split
      · rfl
      · rw [State.symbolDone_eq_symbolEnded]
        exact (symbolEnded_armed _).1
    · rfl

/-- A sample consumed has left SAMPQ already. -/
theorem State.consume_sampq (s : State) (y : Cx Num) : (s.consume y).q.sampq = s.q.sampq := by
  unfold State.consume
  dsimp only
  split
  · rfl
  · split <;> rfl
  · rfl
  · rfl
  · rfl
  · unfold State.symbolSample
    split
    · split <;> rfl
    · split
      · rw [State.symbolDone_eq_symbolEnded]
        exact (symbolEnded_armed _).2
      · rfl

/-- A sample step that does not hold takes the oldest sample. -/
theorem State.sampleStep_cases (s : State) :
    s.sampleStep = s ∨ ∃ x, s.q.sampq = x :: s.sampleStep.q.sampq := by
  unfold State.sampleStep
  split
  · exact .inl rfl
  · split
    · exact .inl rfl
    · next x rest hq => exact .inr ⟨x, by rw [State.consume_sampq]; exact hq⟩

/-- A step of SYNC that takes no sample leaves the no-samples step armed or disarmed as it was. -/
theorem State.syncStep_armed_cases (s : State) :
    s.syncStep.sync.nsArmed = s.sync.nsArmed ∨ ∃ x, s.q.sampq = x :: s.syncStep.q.sampq := by
  have sample : s.sampleStep.sync.nsArmed = s.sync.nsArmed ∨ ∃ x, s.q.sampq = x :: s.sampleStep.q.sampq :=
    s.sampleStep_cases.imp_left fun holds => by rw [holds]
  have timeout : s.syncTimeoutStep.sync.nsArmed = s.sync.nsArmed := by
    rw [s.syncTimeoutStep_eq_timedOut]
    rfl
  unfold State.syncStep
  split
  · exact .inl rfl
  · split
    · exact .inl rfl
    · exact sample
    · split
      · exact .inl rfl
      · split
        · exact .inl timeout
        · exact sample
    · split
      · exact .inl rfl
      · split
        · exact .inl timeout
        · exact sample
    · split
      · exact sample
      · exact .inl s.captureDone_armed
    · exact sample

/-! ## The agents that leave the state of SYNC alone (10_state.md R50) -/

theorem State.acqStep_sync (s : State) : s.acqStep.sync = s.sync := by
  unfold State.acqStep
  split
  · rfl
  · split <;> rfl

theorem State.ficSymbol_sync (s : State) (f : Word) (l : Nat) (b : List SoftBit) :
    (s.ficSymbol f l b).sync = s.sync := by
  unfold State.ficSymbol State.ficEmit
  dsimp only
  split
  · split <;> rfl
  · rfl

theorem State.cifSymbol_sync (s : State) (a : Selection) (b : List SoftBit) :
    (s.cifSymbol a b).sync = s.sync := by
  unfold State.cifSymbol State.cifEmit
  dsimp only
  split
  · split <;> rfl
  · rfl

theorem State.demodEntry_sync (s : State) (e : SymEntry) : (s.demodEntry e).sync = s.sync := by
  cases e with
  | abort f => rfl
  | symbol f l x =>
    show (s.demodSymbol f l x).sync = s.sync
    unfold State.demodSymbol
    dsimp only
    split
    · rfl
    · split
      · rfl
      · split
        · exact State.ficSymbol_sync _ f l _
        · exact State.cifSymbol_sync _ _ _

theorem State.demodStep_sync (s : State) : s.demodStep.sync = s.sync := by
  unfold State.demodStep
  split
  · rfl
  · split
    · rfl
    · split
      · rfl
      · exact State.demodEntry_sync _ _

theorem State.mscStep_sync (s : State) : s.mscStep.sync = s.sync := by
  unfold State.mscStep
  split
  · rfl
  · split
    · rfl
    · dsimp only
      split <;> rfl

theorem State.raiseIf_sync (s : State) (b : Bool) (c : Event) (info : Word) : (s.raiseIf b c info).sync = s.sync := by
  cases b <;> rfl

theorem State.emitRecord_sync (s : State) (record : List Word) (ready : Event) (info : Word) :
    (s.emitRecord record ready info).sync = s.sync := by
  unfold State.emitRecord
  split <;> rfl

theorem State.processAu_sync (s : State) (w : List Byte) (cw h i start stop : Nat) :
    (s.processAu w cw h i start stop).sync = s.sync := by
  unfold State.processAu
  dsimp only
  split
  · rfl
  · split
    · exact State.emitRecord_sync _ _ _ _
    · rfl

theorem State.processAus_sync (s : State) (w : List Byte) (cw h : Nat) (st : Nat → Nat) (is : List Nat) :
    (s.processAus w cw h st is).sync = s.sync := by
  induction is generalizing s with
  | nil => rfl
  | cons i is ih => exact (ih _).trans (s.processAu_sync w cw h i _ _)

theorem State.enterSynced_sync (s : State) : s.enterSynced.sync = s.sync := State.raiseIf_sync _ _ _ _

theorem State.cacheFormat_sync (s : State) (w : List Byte) : (s.cacheFormat w).sync = s.sync := by
  unfold State.cacheFormat
  split
  · rfl
  · exact State.emitRecord_sync _ _ _ _

theorem State.passWindow_sync (s : State) (w : List Byte) (cw nunc : Nat) :
    (s.passWindow w cw nunc).sync = s.sync := by
  unfold State.passWindow
  split
  · exact s.enterSynced_sync
  · exact (State.processAus_sync _ _ _ _ _ _).trans ((State.cacheFormat_sync _ w).trans s.enterSynced_sync)

theorem State.failWindow_sync (s : State) (fire : Bool) : (s.failWindow fire).sync = s.sync := by
  refine (State.raiseIf_sync _ _ _ _).trans ?_
  cases fire <;> rfl

theorem State.countRsWindow_sync (s : State) (r : RsWindow) : (s.countRsWindow r).sync = s.sync :=
  (State.raiseIf_sync _ _ _ _).trans (State.raiseIf_sync _ _ _ _)

theorem State.attemptWindow_sync (s : State) (cw : Nat) : (s.attemptWindow cw).sync = s.sync := by
  unfold State.attemptWindow
  dsimp only
  split
  · exact (State.passWindow_sync _ _ _ _).trans (s.countRsWindow_sync _)
  · exact (State.failWindow_sync _ _).trans (s.countRsWindow_sync _)

theorem State.assemble_sync (s : State) (bytes : List Byte) (cw : Nat) : (s.assemble bytes cw).sync = s.sync := by
  unfold State.assemble
  split
  · exact State.attemptWindow_sync _ cw
  · rfl

theorem State.sfaStep_sync (s : State) : s.sfaStep.sync = s.sync := by
  unfold State.sfaStep
  split
  · rfl
  · split
    · rfl
    · split
      · rfl
      · refine (State.assemble_sync _ _ _).trans ?_
        unfold State.adoptSfaGen
        split <;> rfl

theorem CommandEffect.sync {s t : State} (h : CommandEffect s t) : t.sync = s.sync := by
  cases h <;> simp

/-! ## The turns that touch the state of SYNC -/

theorem State.hostRead_sync (s after : State) (a : HostAddr) (w : Width) :
    (s.hostRead after a w).sync = s.sync := by
  obtain ⟨r, v, e⟩ | e := s.hostRead_cases after a w
  · rw [e, s.csrReadEffect_frame]
    rfl
  · rw [e]
    rfl

/-- A host write touches the state of SYNC only where it resets the block. -/
theorem State.hostWrite_sync_cases (s : State) (a : HostAddr) (w : Width) (v : Word) :
    (s.hostWrite a w v).sync = s.sync ∨ (a = 0x004 ∧ w = .w32 ∧ v.getLsbD 3 = true) := by
  obtain ⟨r, ha, hw, e⟩ | ⟨o, -, e⟩ | e | e := s.hostWrite_cases a w v <;> rw [e]
  · by_cases hr : r = .ctrl
    · subst hr
      obtain ⟨ctl, ev, written⟩ := s.writeCtrl_cases v
      cases hv : v.getLsbD 3
      · rw [show s.csrWrite v .ctrl = s.writeCtrl v from rfl, written, hv]
        exact .inl rfl
      · exact .inr ⟨BitVec.eq_of_toNat_eq ha, hw, rfl⟩
    · rw [s.csrWrite_frame v hr]
      exact .inl rfl
  · exact .inl rfl
  · exact .inl rfl
  · exact .inl rfl

/-- What a turn does to the state of SYNC. -/
theorem runTurn_sync_cases {s t : State} {u : Turn} (h : runTurn u s = .next t) :
    t.sync = s.sync ∨ (u = .sync ∧ t = s.syncStep) ∨ (u = .nosample ∧ t = s.nosampleStep) ∨
      u = .hardwareReset ∨ ∃ v : Word, u = .host (.write 0x004 .w32 v) ∧ v.getLsbD 3 = true := by
  cases u with
  | sync => exact .inr (.inl ⟨rfl, (Host.Outcome.next.inj h).symm⟩)
  | nosample => exact .inr (.inr (.inl ⟨rfl, (Host.Outcome.next.inj h).symm⟩))
  | hardwareReset => exact .inr (.inr (.inr (.inl rfl)))
  | acq => exact .inl (Host.Outcome.next.inj h ▸ s.acqStep_sync)
  | demod => exact .inl (Host.Outcome.next.inj h ▸ s.demodStep_sync)
  | msc => exact .inl (Host.Outcome.next.inj h ▸ s.mscStep_sync)
  | sfa => exact .inl (Host.Outcome.next.inj h ▸ s.sfaStep_sync)
  | cmd =>
    obtain ⟨t', e, effect⟩ := cmdStep_effect s
    obtain rfl : t' = t := Host.Outcome.next.inj (e.symm.trans h)
    exact .inl effect.sync
  | host x =>
    obtain rfl := Host.Outcome.next.inj h
    cases x with
    | read a w => exact .inl (s.hostRead_sync s.afterCmd a w)
    | write a w v =>
      obtain kept | ⟨rfl, rfl, hv⟩ := s.hostWrite_sync_cases a w v
      · exact .inl kept
      · exact .inr (.inr (.inr (.inr ⟨v, rfl, hv⟩)))

/-- The end of a turn leaves SAMPQ as it is. -/
theorem State.settle_sampq (s : State) : s.settle.q.sampq = s.q.sampq := by
  obtain e | ⟨-, -, e⟩ := s.settle_cases <;> rw [e]
  rfl

end Sys2Proof.Machine

namespace Sys2Proof.Claims

open Sys2Proof.Machine

/-- Settles O47: the step that fires disarms itself, and of all turns only a step of SYNC that takes a sample and
the resets arm it. -/
theorem nosampleFiresOncePerSample : Obligations.NosampleFiresOncePerSample := by
  refine ⟨fun s => ⟨fun enabled => ?_, fun disabled => ?_, s.nosampleStep_idem⟩, fun s t h disarmed armed => ?_⟩
  · exact State.nosampleStep_enabled (State.nosampleEnabled_iff.mpr enabled)
  · exact State.nosampleStep_disabled fun h => disabled (State.nosampleEnabled_iff.mp h)
  obtain ⟨u, hu, rfl⟩ := runTurn_of_step h
  rw [State.settle_sync] at armed
  have changed : u.sync.nsArmed ≠ s.beginTurn.sync.nsArmed := by simp [armed, disarmed]
  obtain kept | ⟨turn, rfl⟩ | ⟨-, rfl⟩ | reset := runTurn_sync_cases hu
  · exact absurd (congrArg SyncState.nsArmed kept) changed
  · obtain kept | consumed := s.beginTurn.syncStep_armed_cases
    · exact absurd kept changed
    · rw [State.settle_sampq]
      exact .inr ⟨turn, consumed⟩
  · exact absurd (congrArg (·.sync.nsArmed) (State.nosampleStep_disarmed (s := s.beginTurn) disarmed)) changed
  · exact .inl reset

end Sys2Proof.Claims
end

section
/-! SUPPORT. The Viterbi decoder (41_viterbi.md R270–R280): the metrics matter only up to a common amount, so
renormalisation is not observable, and the walk back from a state is a path at least as cheap as any other path to
that state, so the decoded payload has a cheapest codeword. -/

namespace Sys2Proof.Machine

open Claims

/-! ## `VITDEC` past its checks (41_viterbi.md R280) -/

theorem exec_vitdec_of_executable {s : State} (hq : s.cmd.queue ≠ []) {src dst : BufOffset} {n : BitVec 20}
    (h : Executable (.vitdec src dst n)) : exec (.vitdec src dst n) s =
    .next ((s.cmdWrite dst.toNat
      (packBits (viterbi (s.memRead src.toNat (4 * (n.toNat + 6))) n.toNat))).complete .ok (n.zeroExtend 32)) := by
  have inside : (regionOk src.toNat (4 * (n.toNat + 6)) 1 && regionOk dst.toNat (bytesForBits n.toNat) 1) = true := by
    simpa [regions, regionOk_iff_inBuf, bytesForBits] using h.2
  exact congrArg _ (State.runCommand_checked hq h.1 inside _)

/-! ## The states of the trellis (41_viterbi.md R272) -/

/-- The state after a sequence of inputs. -/
def convState (p : Nat) (as : List Bool) : Nat := as.foldl convNext p

@[simp] theorem convState_nil (p : Nat) : convState p [] = p := rfl

@[simp] theorem convState_cons (p : Nat) (a : Bool) (as : List Bool) :
    convState p (a :: as) = convState (convNext p a) as := rfl

theorem convState_append (p : Nat) (as bs : List Bool) :
    convState p (as ++ bs) = convState (convState p as) bs := List.foldl_append ..

/-- The state reached by six inputs holds those inputs and nothing else. -/
theorem convState_six (p : Nat) (a b c d e f : Bool) : convState p [a, b, c, d, e, f] =
    32 * a.toNat + 16 * b.toNat + 8 * c.toNat + 4 * d.toNat + 2 * e.toNat + f.toNat := by
  have := a.toNat_le; have := b.toNat_le; have := c.toNat_le
  have := d.toNat_le; have := e.toNat_le; have := f.toNat_le
  simp only [convState_cons, convState_nil, convNext]
  omega

/-- Six inputs lead to state 0 exactly when they are the tail (41_viterbi.md R271). -/
theorem convState_eq_zero_iff (p : Nat) {as : List Bool} (h : as.length = 6) :
    convState p as = 0 ↔ as = List.replicate 6 false := by
  obtain ⟨a, b, c, d, e, f, rfl⟩ : ∃ a b c d e f, as = [a, b, c, d, e, f] := by
    match as, h with
    | [a, b, c, d, e, f], _ => exact ⟨a, b, c, d, e, f, rfl⟩
  rw [convState_six]
  simp [List.replicate, and_assoc]

/-- A predecessor of `ns`: `p1` or `p0` (41_viterbi.md R272). -/
def predecessor (ns : Nat) (high : Bool) : Nat := ns / 2 + if high then 32 else 0

theorem predecessor_lt {ns : Nat} (h : ns < 64) (high : Bool) : predecessor ns high < 64 := by
  cases high <;> simp [predecessor] <;> omega

theorem convNext_lt (p : Nat) (a : Bool) : convNext p a < 64 := Nat.mod_lt _ (by decide)

/-- A step from a predecessor leads to its successor. -/
theorem convNext_predecessor {ns : Nat} (h : ns < 64) (high : Bool) :
    convNext (predecessor ns high) (ns % 2 == 1) = ns := by
  have input : (ns % 2 == 1).toNat = ns % 2 := by
    obtain even | odd := Nat.mod_two_eq_zero_or_one ns <;> simp [*]
  simp only [convNext, input, predecessor]
  split <;> omega

theorem predecessor_convNext {p : Nat} (h : p < 64) (a : Bool) : predecessor (convNext p a) (32 ≤ p) = p := by
  have := a.toNat_le
  simp only [predecessor, convNext, decide_eq_true_eq]
  split <;> omega

theorem convNext_input (p : Nat) (a : Bool) : (convNext p a % 2 == 1) = a := by
  cases a <;> simp [convNext]

/-! ## Add, compare and select (41_viterbi.md R275) -/

/-- The metric of reaching state `ns` from one of its predecessors. -/
def arrival (pm : List Metric) (v : List Nat) (ns : Nat) (high : Bool) : Metric :=
  (pm.getD (predecessor ns high) none).map (· + branchMetric v (predecessor ns high) (ns % 2 == 1))

/-- Of the metrics from the two predecessors the lesser is selected, `p0`'s on a tie. -/
theorem selectPredecessor_eq (pm : List Metric) (v : List Nat) (ns : Nat) : selectPredecessor pm v ns =
    if metricLt (arrival pm v ns true) (arrival pm v ns false) then (arrival pm v ns true, true)
    else (arrival pm v ns false, false) := rfl

theorem selectPredecessor_fst (pm : List Metric) (v : List Nat) (ns : Nat) :
    (selectPredecessor pm v ns).1 = arrival pm v ns (selectPredecessor pm v ns).2 := by
  rw [selectPredecessor_eq]
  split <;> rfl

theorem metricLt_iff {a b : Metric} : metricLt a b = true ↔ ∃ j ∈ a, ∀ k ∈ b, j < k := by
  cases a <;> cases b <;> simp [metricLt]

/-- Neither of two metrics is below the one selected. -/
theorem selected_le {m0 m1 : Metric} {k : Nat} (h : k ∈ m0 ∨ k ∈ m1) :
    ∃ m ∈ (if metricLt m1 m0 then m1 else m0), m ≤ k := by
  split
  · next lt =>
    obtain ⟨j, hj, below⟩ := metricLt_iff.mp lt
    obtain h | h := h
    · exact ⟨j, hj, (below k h).le⟩
    · exact ⟨k, h, le_rfl⟩
  · next ge =>
    obtain h | h := h
    · exact ⟨k, h, le_rfl⟩
    · by_contra! above
      exact ge (metricLt_iff.mpr ⟨k, h, above⟩)

theorem selectPredecessor_le {pm : List Metric} {v : List Nat} {ns k : Nat} {high : Bool}
    (h : k ∈ arrival pm v ns high) : ∃ m ∈ (selectPredecessor pm v ns).1, m ≤ k := by
  rw [selectPredecessor_eq, apply_ite Prod.fst]
  refine selected_le ?_
  cases high
  · exact .inl h
  · exact .inr h

theorem trellisStep_getD (pm : List Metric) (v : List Nat) {ns : Nat} (h : ns < 64) :
    ((trellisStep pm v).map (·.1)).getD ns none = (selectPredecessor pm v ns).1 ∧
      ((trellisStep pm v).map (·.2)).getD ns false = (selectPredecessor pm v ns).2 := by
  simp [trellisStep, h]

/-! ## Renormalisation (41_viterbi.md R276) -/

/-- Every metric increased by `d`, ∞ staying ∞. -/
def raise (d : Nat) (pm : List Metric) : List Metric := pm.map (Option.map (· + d))

theorem raise_getD (d : Nat) (pm : List Metric) (i : Nat) :
    (raise d pm).getD i none = (pm.getD i none).map (· + d) := by
  simp only [raise, List.getD_eq_getElem?_getD, List.getElem?_map]
  cases pm[i]? <;> rfl

theorem raise_zero (pm : List Metric) : raise 0 pm = pm := by
  simp [raise]

theorem raise_raise (d e : Nat) (pm : List Metric) : raise d (raise e pm) = raise (e + d) pm := by
  simp [raise, Function.comp_def, Nat.add_assoc]

theorem metricLt_raised (a b : Metric) (d : Nat) : metricLt (a.map (· + d)) (b.map (· + d)) = metricLt a b := by
  cases a <;> cases b <;> simp [metricLt]

theorem arrival_raise (d : Nat) (pm : List Metric) (v : List Nat) (ns : Nat) (high : Bool) :
    arrival (raise d pm) v ns high = (arrival pm v ns high).map (· + d) := by
  rw [arrival, arrival, raise_getD]
  simp [Function.comp_def, Nat.add_right_comm]

/-- Metrics raised together: the same predecessor is chosen, and its metric is raised as much. -/
theorem selectPredecessor_raise (d : Nat) (pm : List Metric) (v : List Nat) (ns : Nat) :
    selectPredecessor (raise d pm) v ns =
      ((selectPredecessor pm v ns).1.map (· + d), (selectPredecessor pm v ns).2) := by
  simp only [selectPredecessor_eq, arrival_raise, metricLt_raised]
  split <;> rfl

theorem trellisStep_raise (d : Nat) (pm : List Metric) (v : List Nat) :
    (trellisStep (raise d pm) v).map (·.1) = raise d ((trellisStep pm v).map (·.1)) ∧
      (trellisStep (raise d pm) v).map (·.2) = (trellisStep pm v).map (·.2) := by
  simp only [trellisStep, raise.eq_1 d (List.map ..), List.map_map, Function.comp_def, selectPredecessor_raise,
    and_self]

/-- The running minimum is below every metric it has seen. -/
theorem foldl_least_le {pm : List Metric} {acc : Metric} {least : Nat}
    (h : pm.foldl (fun m x => if metricLt x m then x else m) acc = some least) :
    ∀ m ∈ acc :: pm, ∀ k ∈ m, least ≤ k := by
  induction pm generalizing acc with
  | nil =>
    simp only [List.mem_singleton, forall_eq]
    intro k hk
    exact (Option.some.inj (h.symm.trans hk)).le
  | cons x pm ih =>
    obtain ⟨chosen, later⟩ := List.forall_mem_cons.mp (ih h)
    have below {k : Nat} (hk : k ∈ acc ∨ k ∈ x) : least ≤ k := by
      obtain ⟨m, hm, le⟩ := selected_le hk
      exact (chosen m hm).trans le
    simp only [List.forall_mem_cons]
    exact ⟨fun _ hk => below (.inl hk), fun _ hk => below (.inr hk), later⟩

/-- What renormalisation takes away can be put back: the least metric is below the others. -/
theorem renormalise_raise (limit : Option Nat) (pm : List Metric) : ∃ d, pm = raise d (renormalise limit pm) := by
  have kept : ∃ d, pm = raise d pm := ⟨0, (raise_zero pm).symm⟩
  unfold renormalise
  split
  · next least h =>
    split
    · refine ⟨least, ?_⟩
      have putBack : ∀ m ∈ pm, (m.map (· - least)).map (· + least) = id m := by
        rintro (_ | k) hm
        · rfl
        · exact congrArg some (Nat.sub_add_cancel (foldl_least_le h _ (List.mem_cons_of_mem _ hm) k rfl))
      exact ((List.map_map ..).trans ((List.map_congr_left putBack).trans (List.map_id pm))).symm
    · exact kept
  · exact kept

/-- From metrics that differ by a common amount, renormalised or not, the decisions are the same. -/
theorem trellis_raise (limit : Option Nat) (vs : List (List Nat)) (d : Nat) (pm : List Metric) :
    trellis limit pm vs = trellis none (raise d pm) vs := by
  induction vs generalizing d pm with
  | nil => rfl
  | cons v vs ih =>
    obtain ⟨metrics, decisions⟩ := trellisStep_raise d pm v
    obtain ⟨e, he⟩ := renormalise_raise limit ((trellisStep pm v).map (·.1))
    have kept : renormalise none ((trellisStep (raise d pm) v).map (·.1)) =
        raise (e + d) (renormalise limit ((trellisStep pm v).map (·.1))) := by
      rw [← raise_raise, ← he, ← metrics]
      rfl
    rw [trellis, trellis, decisions, kept, ← ih]

/-! ## Costs (41_viterbi.md R273, R274) -/

theorem codewordCost_append (c c' : List Bool) (soft : List SoftBit) : codewordCost (c ++ c') soft =
    codewordCost c (soft.take c.length) + codewordCost c' (soft.drop c.length) := by
  induction c generalizing soft with
  | nil => simp [codewordCost]
  | cons b c ih =>
    cases soft with
    | nil => simp [codewordCost]
    | cons s soft =>
      simp only [codewordCost] at ih
      simp [codewordCost, ih, Nat.add_assoc]

theorem branchMetric_eq_codewordCost (soft : List SoftBit) (p : Nat) (a : Bool) :
    branchMetric (soft.map softValue) p a = codewordCost (convOutput p a) soft := by
  rw [branchMetric, codewordCost, List.zip_map_right, List.foldl_map, List.sum_eq_foldl, List.foldl_map]
  rfl

/-- A path costs its first step and the rest. -/
theorem codewordCost_convFrom_cons (p : Nat) (a : Bool) (as : List Bool) (soft : List SoftBit) :
    codewordCost (convFrom p (a :: as)) soft =
      branchMetric ((soft.take 4).map softValue) p a + codewordCost (convFrom (convNext p a) as) (soft.drop 4) := by
  rw [branchMetric_eq_codewordCost, convFrom, codewordCost_append]
  rfl

theorem softSteps_succ (soft : List SoftBit) (steps : Nat) :
    softSteps soft (steps + 1) = (soft.take 4).map softValue :: softSteps (soft.drop 4) steps := by
  simp [softSteps, List.range_succ_eq_map, Function.comp_def, Nat.mul_add, Nat.add_comm]

/-! ## The walk back (41_viterbi.md R277) -/

theorem traceback_cons (σ : Nat) (dec : List Bool) (decs : List (List Bool)) (tail : List Bool) :
    traceback σ (dec :: decs) tail =
      traceback (predecessor σ (dec.getD σ false)) decs ((σ % 2 == 1) :: tail) := rfl

/-- The walk back from state `σ` over the decisions made from the metrics `pm` on: it reaches state `start` with
the inputs `bits`, which lead from there to `σ`. -/
structure WalksBack (pm : List Metric) (vs : List (List Nat)) (σ start : Nat) (bits : List Bool) : Prop where
  start_lt : start < 64
  length : bits.length = vs.length
  leads : convState start bits = σ
  walk : ∀ earlier, traceback σ ((trellis none pm vs).reverse ++ earlier) [] = traceback start earlier bits

/-- A walk over the later steps goes one step further back, to the predecessor chosen there. -/
theorem WalksBack.extend {pm : List Metric} {v : List Nat} {vs : List (List Nat)} {σ start : Nat} {bits : List Bool}
    (h : WalksBack ((trellisStep pm v).map (·.1)) vs σ start bits) :
    WalksBack pm (v :: vs) σ (predecessor start (selectPredecessor pm v start).2) ((start % 2 == 1) :: bits) where
  start_lt := predecessor_lt h.start_lt _
  length := congrArg (· + 1) h.length
  leads := by rw [convState_cons, convNext_predecessor h.start_lt, h.leads]
  walk earlier := by
    rw [trellis, List.reverse_cons, List.append_assoc]
    refine (h.walk _).trans ?_
    rw [List.singleton_append, traceback_cons, (trellisStep_getD pm v h.start_lt).2]

/-- No path to a state is cheaper than the one the walk back from that state finds, by induction on the path. -/
theorem walksBack_cheapest (as : List Bool) (soft : List SoftBit) (pm : List Metric) {p c : Nat} (hp : p < 64)
    (hc : c ∈ pm.getD p none) : ∃ start bits,
      WalksBack pm (softSteps soft as.length) (convState p as) start bits ∧
      ∃ k ∈ pm.getD start none,
        k + codewordCost (convFrom start bits) soft ≤ c + codewordCost (convFrom p as) soft := by
  induction as generalizing soft pm p c with
  | nil => exact ⟨p, [], ⟨hp, rfl, rfl, fun _ => rfl⟩, c, hc, le_rfl⟩
  | cons a as ih =>
    rw [List.length_cons, softSteps_succ, convState_cons]
    set v := (soft.take 4).map softValue with hv
    have arrives : c + branchMetric v p a ∈ arrival pm v (convNext p a) (32 ≤ p) := by
      rw [arrival, predecessor_convNext hp, convNext_input]
      exact Option.mem_map_of_mem _ hc
    obtain ⟨m, hm, le⟩ := selectPredecessor_le arrives
    obtain ⟨start, bits, back, k, hk, cheapest⟩ := ih (soft.drop 4) ((trellisStep pm v).map (·.1))
      (convNext_lt p a) (by rwa [(trellisStep_getD pm v (convNext_lt p a)).1])
    rw [(trellisStep_getD pm v back.start_lt).1, selectPredecessor_fst] at hk
    obtain ⟨k', hk', rfl⟩ := Option.mem_map.mp hk
    refine ⟨_, _, back.extend, k', hk', ?_⟩
    rw [codewordCost_convFrom_cons, codewordCost_convFrom_cons, convNext_predecessor back.start_lt, ← hv]
    omega

theorem mem_initialMetrics {p k : Nat} (h : k ∈ initialMetrics.getD p none) : p = 0 ∧ k = 0 := by
  cases p with
  | zero => exact ⟨rfl, (Option.mem_some_iff.mp h).symm⟩
  | succ p =>
    rw [initialMetrics, List.getD_cons_succ, List.getD_eq_getElem?_getD,
      List.getElem?_getD_replicate_default_eq] at h
    cases h

/-- The inputs the decoder finds are its output and the tail. -/
theorem viterbi_append_tail {soft : List SoftBit} {n : Nat} {bits : List Bool}
    (h : WalksBack initialMetrics (softSteps soft (n + 6)) 0 0 bits) :
    viterbi soft n ++ List.replicate 6 false = bits := by
  have found : viterbi soft n = bits.take n := by
    have walk := h.walk []
    rw [List.append_nil] at walk
    exact congrArg (List.take n) walk
  have length : bits.length = n + 6 := by simpa using h.length
  have ends : convState (convState 0 (bits.take n)) (bits.drop n) = 0 := by
    rw [← convState_append, List.take_append_drop, h.leads]
  rw [found, ← (convState_eq_zero_iff _ (by simp [length])).mp ends, List.take_append_drop]

/-- The decoded payload has a cheapest codeword, whatever the soft bits. -/
theorem codewordCost_viterbi_le (soft : List SoftBit) (p : List Bool) :
    codewordCost (convEncode (viterbi soft p.length)) soft ≤ codewordCost (convEncode p) soft := by
  have toZero : convState 0 (p ++ List.replicate 6 false) = 0 := by
    rw [convState_append, convState_eq_zero_iff _ List.length_replicate]
  obtain ⟨start, bits, back, k, hk, cheapest⟩ :=
    walksBack_cheapest (p ++ List.replicate 6 false) soft initialMetrics (p := 0) (c := 0) (by decide) rfl
  obtain ⟨rfl, rfl⟩ := mem_initialMetrics hk
  rw [toZero, List.length_append, List.length_replicate] at back
  rw [Nat.zero_add, Nat.zero_add, ← viterbi_append_tail back] at cheapest
  exact cheapest

/-! ## Clean soft bits (41_viterbi.md R279) -/

@[simp] theorem convFrom_length (p : Nat) (as : List Bool) : (convFrom p as).length = 4 * as.length := by
  induction as generalizing p with
  | nil => rfl
  | cons a as ih =>
    rw [convFrom, List.length_append, ih, List.length_cons, Nat.mul_succ, Nat.add_comm]
    rfl

/-- Each output bit is the input masked by bits of the state, so the outputs tell the input. -/
theorem convOutput_injective {p : Nat} {a b : Bool} (h : convOutput p a = convOutput p b) : a = b := by
  simpa [convOutput] using h

theorem convFrom_injective {p : Nat} {as bs : List Bool} (h : convFrom p as = convFrom p bs) : as = bs := by
  induction as generalizing p bs with
  | nil =>
    cases bs with
    | nil => rfl
    | cons b bs => cases h
  | cons a as ih =>
    cases bs with
    | nil => cases h
    | cons b bs =>
      obtain ⟨first, rest⟩ := List.append_inj h rfl
      obtain rfl := convOutput_injective first
      rw [ih rest]

theorem convEncode_injective {p q : List Bool} (h : convEncode p = convEncode q) : p = q :=
  List.append_cancel_right (convFrom_injective h)

/-- Against a clean soft bit the bit sent costs 0 or 1, the other one 254 or 255. -/
theorem codewordCost_bit_lt {x y : Bool} (h : x ≠ y) :
    codewordCost [y] (cleanSoft [y]) < codewordCost [x] (cleanSoft [y]) := by
  revert x y
  decide

/-- Against the clean soft bits of a codeword, every other word of its length costs more. -/
theorem eq_or_codewordCost_cleanSoft_lt {c d : List Bool} (h : c.length = d.length) :
    c = d ∨ codewordCost d (cleanSoft d) < codewordCost c (cleanSoft d) := by
  induction d generalizing c with
  | nil => exact .inl (List.eq_nil_of_length_eq_zero h)
  | cons y d ih =>
    obtain ⟨x, c, rfl⟩ := List.exists_cons_of_length_eq_add_one h
    have parts (x : Bool) (c : List Bool) : codewordCost (x :: c) (cleanSoft (y :: d)) =
        codewordCost [x] (cleanSoft [y]) + codewordCost c (cleanSoft d) :=
      codewordCost_append [x] c (cleanSoft (y :: d))
    have rest := ih (Nat.succ.inj h)
    rw [parts, parts]
    by_cases first : x = y
    · subst first
      exact rest.imp (congrArg (x :: ·)) (Nat.add_lt_add_left · _)
    · have le : codewordCost d (cleanSoft d) ≤ codewordCost c (cleanSoft d) :=
        rest.elim (fun e => e ▸ le_rfl) (·.le)
      exact .inr (Nat.add_lt_add_of_lt_of_le (codewordCost_bit_lt first) le)

end Sys2Proof.Machine

namespace Sys2Proof.Claims

open Sys2Proof.Machine

/-- Settles O12: past its checks the command writes N decoded bits, packed into ⌈N/8⌉ bytes. -/
theorem vitdecWritesTheDecodedBits : Obligations.VitdecWritesTheDecodedBits := by
  intro s e rest src dst n hq h
  refine ⟨_, exec_vitdec_of_executable (by simp [hq]) h, ?_⟩
  rw [BitVec.ofNat_toNat]
  exact completedWriting_complete hq .ok _ dst.toNat (by simp)

/-- Settles O53: no path to state 0 is cheaper than the one the walk back from state 0 finds. -/
theorem viterbiFindsABestPayload : Obligations.ViterbiFindsABestPayload := by
  rintro soft _ p - rfl
  exact codewordCost_viterbi_le soft p

/-- Settles O54: the decoded payload's codeword costs no more than the one sent, which no other word does. -/
theorem viterbiDecodesCleanCodewords : Obligations.ViterbiDecodesCleanCodewords := by
  intro p
  have cheapest := codewordCost_viterbi_le (cleanSoft (convEncode p)) p
  refine convEncode_injective ((eq_or_codewordCost_cleanSoft_lt ?_).resolve_right (Nat.not_lt.mpr cheapest))
  simp [convEncode]

/-- Settles O55: renormalisation only takes a common amount from the metrics, and the decisions compare them. -/
theorem renormalisationHasNoEffect : Obligations.RenormalisationHasNoEffect := by
  intro limit soft n
  rw [viterbi, viterbiWith, viterbiWith, trellis_raise limit _ 0, raise_zero]

end Sys2Proof.Claims
end

section
/-! SUPPORT. The EEP de-puncturer and the descrambler (42_eep_dispersal.md R300–R313): how many bits a puncturing
vector, a mask and a row transmit, the descrambler as its own inverse, and what `DEPUNCT` and `DESCR` do past
their checks. -/

namespace Sys2Proof.Machine

open Claims

/-! ## What a mask transmits (42_eep_dispersal.md R300–R303) -/

/-- PI_x transmits one bit more than the vector before it (42_eep_dispersal.md R300). -/
theorem punctureVector_count {x : Nat} (h : 1 ≤ x) (h24 : x ≤ 24) : (punctureVector x).count true = x + 8 := by
  have all : ∀ i < 24, (punctureVector (i + 1)).count true = i + 1 + 8 := by decide
  simpa [Nat.sub_add_cancel h] using all (x - 1) (by omega)

theorem tailVector_count : tailVector.count true = 12 := by decide

/-- Every row of the table names two of the puncturing vectors (42_eep_dispersal.md R302). -/
theorem eepRow_vectors (p : Profile) {l : Nat} (hl : l ∈ [1, 2, 3, 4]) (bitrate : Nat) :
    (1 ≤ (eepRow p l bitrate).pi1 ∧ (eepRow p l bitrate).pi1 ≤ 24) ∧
      1 ≤ (eepRow p l bitrate).pi2 ∧ (eepRow p l bitrate).pi2 ≤ 24 := by
  simp only [List.mem_cons, List.not_mem_nil, or_false] at hl
  cases p with
  | A =>
    rcases hl with rfl | rfl | rfl | rfl
    · simp [eepRow]
    · simp only [eepRow]; split <;> simp
    · simp [eepRow]
    · simp [eepRow]
  | B => rcases hl with rfl | rfl | rfl | rfl <;> simp [eepRow]

/-- A mask transmits what its blocks and the tail do, four vectors a block (42_eep_dispersal.md R303). -/
theorem punctureMask_count {r : EepRow} (h1 : 1 ≤ r.pi1 ∧ r.pi1 ≤ 24) (h2 : 1 ≤ r.pi2 ∧ r.pi2 ≤ 24) :
    (punctureMask r).count true = 4 * (r.l1 * (r.pi1 + 8) + r.l2 * (r.pi2 + 8)) + 12 := by
  simp only [punctureMask, List.count_append, List.count_flatten, List.map_replicate, List.sum_replicate_nat,
    punctureVector_count h1.1 h1.2, punctureVector_count h2.1 h2.2, tailVector_count]
  ring

/-- In every row of the table the blocks and the tail transmit the sub-channel (42_eep_dispersal.md R302). -/
theorem eepRow_transmits {p : Profile} {bitrate : Nat} (h : bitrateLegal p bitrate = true) {l : Nat}
    (hl : l ∈ [1, 2, 3, 4]) :
    4 * ((eepRow p l bitrate).l1 * ((eepRow p l bitrate).pi1 + 8) +
      (eepRow p l bitrate).l2 * ((eepRow p l bitrate).pi2 + 8)) + 12 = 64 * (eepRow p l bitrate).size := by
  obtain ⟨n, hn, rfl⟩ := bitrateLegal_iff.mp h
  simp only [List.mem_cons, List.not_mem_nil, or_false] at hl
  cases p with
  | A =>
    rcases hl with rfl | rfl | rfl | rfl
    · simp only [eepRow, if_true]; omega
    · simp only [eepRow, if_true]
      split
      · rfl
      · simp only; omega
    · simp only [eepRow, if_true]; omega
    · simp only [eepRow, if_true]; omega
  | B => rcases hl with rfl | rfl | rfl | rfl <;> simp only [eepRow, reduceCtorEq, if_false] <;> omega

/-! ## The descrambler (42_eep_dispersal.md R311, R313) -/

/-- Adding a key of the same length twice changes nothing. -/
theorem zipWith_xor_twice {b key : List Bool} (h : b.length = key.length) :
    (b.zipWith (· ^^ ·) key).zipWith (· ^^ ·) key = b := by
  refine List.ext_getElem (by simp [h]) fun i _ _ => ?_
  rw [List.getElem_zipWith, List.getElem_zipWith, Bool.xor_assoc, Bool.xor_self, Bool.xor_false]

theorem prbs_length (n : Nat) : (prbs n).length = n := prbsFrom_length n _

/-- The PRBS added depends on the number of bits only, which descrambling keeps. -/
theorem dedisperse_dedisperse (b : List Bool) : dedisperse (dedisperse b) = b := by
  rw [dedisperse, dedisperse_length, dedisperse]
  exact zipWith_xor_twice (prbs_length _).symm

/-! ## The commands past their checks (42_eep_dispersal.md R305, R312) -/

section
variable {s : State} (hq : s.cmd.queue ≠ []) {src dst : BufOffset}
include hq

theorem exec_depunct_of_executable {b : BitVec 11} {p : Profile} {l : BitVec 2}
    (h : Executable (.depunct src dst b p l)) : exec (.depunct src dst b p l) s =
    .next ((s.cmdWrite dst.toNat
      (depuncture (s.memRead src.toNat (64 * (eepRow p (l.toNat + 1) b.toNat).size)) p (l.toNat + 1)
        b.toNat)).complete .ok (BitVec.ofNat 32 (4 * (24 * b.toNat + 6)))) := by
  have inside : (regionOk src.toNat (64 * (eepRow p (l.toNat + 1) b.toNat).size) 1 &&
      regionOk dst.toNat (4 * (24 * b.toNat + 6)) 1) = true := by
    simpa [regions, regionOk_iff_inBuf] using h.2
  exact congrArg _ (State.runCommand_checked hq h.1 inside _)

theorem exec_descr_of_executable {n : BitVec 21} (h : Executable (.descr src dst n)) : exec (.descr src dst n) s =
    .next ((s.cmdWrite dst.toNat (packBits
      (dedisperse (unpackBits (s.memRead src.toNat ((n.toNat + 7) / 8)) n.toNat)))).complete .ok
        (n.zeroExtend 32)) := by
  have inside : (regionOk src.toNat (bytesForBits n.toNat) 1 &&
      regionOk dst.toNat (bytesForBits n.toNat) 1) = true := by
    simpa [regions, regionOk_iff_inBuf, bytesForBits] using h.2
  exact congrArg _ (State.runCommand_checked hq h.1 inside _)

end

end Sys2Proof.Machine

namespace Sys2Proof.Claims

open Sys2Proof.Machine

/-- Settles O13: past its checks the command writes one soft bit for each bit of the mother codeword. -/
theorem depunctWritesTheMotherSoftBits : Obligations.DepunctWritesTheMotherSoftBits := by
  intro s e rest src dst b p l hq h
  exact ⟨_, exec_depunct_of_executable (by simp [hq]) h,
    completedWriting_complete hq .ok _ dst.toNat (depuncture_length h.1 (level_mem l) _)⟩

/-- Settles O14: past its checks the command writes `nbits` bits, packed into ⌈nbits/8⌉ bytes. -/
theorem descrWritesTheDescrambledBits : Obligations.DescrWritesTheDescrambledBits := by
  intro s e rest src dst n hq h
  refine ⟨_, exec_descr_of_executable (by simp [hq]) h, ?_⟩
  rw [BitVec.ofNat_toNat]
  exact completedWriting_complete hq .ok _ dst.toNat (by simp)

/-- Settles O56: the blocks of a row cover the payload and transmit, with the tail, its capacity units. -/
theorem eepMaskFitsItsRow : Obligations.EepMaskFitsItsRow := by
  intro p l b hb
  obtain ⟨h1, h2⟩ := eepRow_vectors p (level_mem l) b
  refine ⟨?_, (punctureMask_count h1 h2).trans (eepRow_transmits hb (level_mem l))⟩
  have blocks := eepRow_blocks hb _ (level_mem l)
  rw [punctureMask_length]
  omega

/-- Settles O57: both times the same PRBS is added. -/
theorem descramblingTwiceRestores : Obligations.DescramblingTwiceRestores := dedisperse_dedisperse

end Sys2Proof.Claims
end


section
/-! SUPPORT. GF(256) is a field (43_reed_solomon.md R340). -/

namespace Sys2Proof.Machine

/-! ## The laws of the product -/

theorem gfDouble_xor (a b : Byte) : gfDouble (a ^^^ b) = gfDouble a ^^^ gfDouble b := by
  have reduced : (if (a ^^^ b).msb then (0x1D : Byte) else 0) =
      (if a.msb then 0x1D else 0) ^^^ (if b.msb then 0x1D else 0) := by
    rw [BitVec.msb_xor]
    cases a.msb <;> cases b.msb <;> rfl
  simp only [gfDouble, reduced, BitVec.shiftLeft_xor_distrib]
  ac_rfl

theorem gfMulLow_xor_left (n : Nat) (a a' b : Byte) :
    gfMulLow n (a ^^^ a') b = gfMulLow n a b ^^^ gfMulLow n a' b := by
  induction n generalizing a a' b with
  | zero => simp [gfMulLow]
  | succ n ih =>
    simp only [gfMulLow, gfDouble_xor, ih]
    split
    · ac_rfl
    · simp

theorem gfMulLow_xor_right (n : Nat) (a b b' : Byte) :
    gfMulLow n a (b ^^^ b') = gfMulLow n a b ^^^ gfMulLow n a b' := by
  induction n generalizing a b b' with
  | zero => simp [gfMulLow]
  | succ n ih =>
    have bit : (if (b ^^^ b').getLsbD 0 then a else 0) =
        (if b.getLsbD 0 then a else 0) ^^^ (if b'.getLsbD 0 then a else 0) := by
      rw [BitVec.getLsbD_xor]
      cases b.getLsbD 0 <;> cases b'.getLsbD 0 <;> simp
    simp only [gfMulLow, bit, BitVec.ushiftRight_xor_distrib, ih]
    ac_rfl

theorem gfMulLow_double (n : Nat) (a b : Byte) : gfMulLow n (gfDouble a) b = gfDouble (gfMulLow n a b) := by
  induction n generalizing a b with
  | zero => simp [gfMulLow, gfDouble]
  | succ n ih =>
    simp only [gfMulLow, gfDouble_xor, ih]
    split <;> rfl

theorem gfMul_zero_left (b : Byte) : gfMul 0 b = 0 := by
  simpa [gfMul] using gfMulLow_xor_left 8 0 0 b

theorem gfMul_double (a b : Byte) : gfMul (gfDouble a) b = gfDouble (gfMul a b) := gfMulLow_double 8 a b

theorem gfMul_xor_left (a a' b : Byte) : gfMul (a ^^^ a') b = gfMul a b ^^^ gfMul a' b :=
  gfMulLow_xor_left 8 a a' b

theorem gfMul_xor_right (a b b' : Byte) : gfMul a (b ^^^ b') = gfMul a b ^^^ gfMul a b' :=
  gfMulLow_xor_right 8 a b b'

/-- Multiplying by `b` goes through the sum of doubles that a product with `c` is. -/
theorem gfMul_gfMulLow (n : Nat) (a c b : Byte) : gfMul (gfMulLow n a c) b = gfMulLow n (gfMul a b) c := by
  induction n generalizing a c with
  | zero => exact gfMul_zero_left b
  | succ n ih =>
    simp only [gfMulLow, gfMul_xor_left, ih, gfMul_double]
    split
    · rfl
    · rw [gfMul_zero_left]

theorem gfMul_right_comm (a b c : Byte) : gfMul (gfMul a b) c = gfMul (gfMul a c) b := gfMul_gfMulLow 8 a b c

theorem gfMul_one_left (b : Byte) : gfMul 1 b = b := by
  revert b
  decide +kernel

theorem gfMul_comm (a b : Byte) : gfMul a b = gfMul b a := by
  have h := gfMul_right_comm 1 a b
  rwa [gfMul_one_left, gfMul_one_left] at h

theorem gfMul_assoc (a b c : Byte) : gfMul (gfMul a b) c = gfMul a (gfMul b c) := by
  rw [gfMul_comm a b, gfMul_right_comm, gfMul_comm]

theorem gfInv_zero : gfInv 0 = 0 := by
  rw [gfInv, gfSquares, gfMul_zero_left, gfMul_zero_left]

/-- The power the model takes is the inverse, checked for each of the 255 bytes (43_reed_solomon.md R340). -/
theorem gfMul_gfInv {a : Byte} (h : a ≠ 0) : gfMul a (gfInv a) = 1 := by
  revert a
  decide +kernel

/-- `gfDouble` multiplies by α, the byte 2 (43_reed_solomon.md R340). -/
theorem gfDouble_eq_mul (a : Byte) : gfDouble a = gfMul 2 a := by
  rw [show (2 : Byte) = gfDouble 1 from rfl, gfMul_double, gfMul_one_left]

/-! ## The field -/

/-- A byte as an element of GF(256), a type of its own beside the integers modulo 256. -/
@[ext] structure Gf where
  byte : Byte

/-- GF(256): XOR is the sum and `gfMul` the product (43_reed_solomon.md R340). -/
@[reducible] def gfField : Field Gf where
  add a b := ⟨a.byte ^^^ b.byte⟩
  add_assoc _ _ _ := Gf.ext (BitVec.xor_assoc _ _ _)
  zero := ⟨0⟩
  zero_add _ := Gf.ext BitVec.zero_xor
  add_zero _ := Gf.ext BitVec.xor_zero
  add_comm _ _ := Gf.ext (BitVec.xor_comm _ _)
  nsmul := @nsmulRec Gf ⟨⟨0⟩⟩ ⟨fun a b => ⟨a.byte ^^^ b.byte⟩⟩
  neg := id
  zsmul := @zsmulRec Gf ⟨⟨0⟩⟩ ⟨fun a b => ⟨a.byte ^^^ b.byte⟩⟩ ⟨id⟩
    (@nsmulRec Gf ⟨⟨0⟩⟩ ⟨fun a b => ⟨a.byte ^^^ b.byte⟩⟩)
  neg_add_cancel _ := Gf.ext BitVec.xor_self
  mul a b := ⟨gfMul a.byte b.byte⟩
  mul_assoc _ _ _ := Gf.ext (gfMul_assoc _ _ _)
  one := ⟨1⟩
  one_mul _ := Gf.ext (gfMul_one_left _)
  mul_one _ := Gf.ext ((gfMul_comm _ _).trans (gfMul_one_left _))
  left_distrib _ _ _ := Gf.ext (gfMul_xor_right _ _ _)
  right_distrib _ _ _ := Gf.ext (gfMul_xor_left _ _ _)
  zero_mul _ := Gf.ext (gfMul_zero_left _)
  mul_zero _ := Gf.ext ((gfMul_comm _ _).trans (gfMul_zero_left _))
  mul_comm _ _ := Gf.ext (gfMul_comm _ _)
  inv a := ⟨gfInv a.byte⟩
  exists_pair_ne := ⟨⟨0⟩, ⟨1⟩, fun h => absurd (congrArg Gf.byte h) (by decide)⟩
  mul_inv_cancel _ h := Gf.ext (gfMul_gfInv fun zero => h (Gf.ext zero))
  inv_zero := Gf.ext gfInv_zero
  nnqsmul := _
  qsmul := _

/-- A reading of the bytes in a field: XOR is its sum and `gfMul` its product. -/
structure GfReading {K : Type} [Field K] (v : Byte → K) : Prop where
  xor : ∀ a b, v (a ^^^ b) = v a + v b
  mul : ∀ a b, v (gfMul a b) = v a * v b
  one : v 1 = 1
  injective : Function.Injective v

theorem gfReading_gf : @GfReading Gf gfField Gf.mk :=
  letI := gfField
  { xor := fun _ _ => rfl
    mul := fun _ _ => rfl
    one := rfl
    injective := fun _ _ => congrArg Gf.byte }

end Sys2Proof.Machine
end


section
/-! SUPPORT. Errors of a word over a field, with no byte of the model in it: the error locator, the error
evaluator and the key equation between them and the syndromes (43_reed_solomon.md R342–R344). An error at position
`i ∈ E` has the locator `x i` and the value `e i`; syndrome `j` is `∑ i ∈ E, e i * x i ^ j`. -/

namespace Sys2Proof.Machine

open Polynomial Finset

section
variable {K : Type} [Field K] {E : Finset ℕ} {x e : ℕ → K}

/-- `Λ = ∏ (1 − x_i·X)`. -/
noncomputable def errorLocator (E : Finset ℕ) (x : ℕ → K) : K[X] := ∏ i ∈ E, (1 - C (x i) * X)

/-- `Ω = ∑ e_i · ∏_{l ≠ i} (1 − x_l·X)`. -/
noncomputable def errorEvaluator (E : Finset ℕ) (x e : ℕ → K) : K[X] :=
  ∑ i ∈ E, C (e i) * errorLocator (E.erase i) x

/-- `S`, the first `N` syndromes. -/
noncomputable def syndromePoly (N : ℕ) (E : Finset ℕ) (x e : ℕ → K) : K[X] :=
  ∑ j ∈ range N, C (∑ i ∈ E, e i * x i ^ j) * X ^ j

theorem syndromePoly_coeff (N : ℕ) (E : Finset ℕ) (x e : ℕ → K) (j : ℕ) :
    (syndromePoly N E x e).coeff j = if j < N then ∑ i ∈ E, e i * x i ^ j else 0 := by
  simp only [syndromePoly, finsetSum_coeff, coeff_C_mul_X_pow, sum_ite_eq, mem_range]

/-! ## The locator -/

theorem errorLocator_erase {i : ℕ} (h : i ∈ E) (x : ℕ → K) :
    errorLocator E x = (1 - C (x i) * X) * errorLocator (E.erase i) x :=
  (mul_prod_erase E (fun i => 1 - C (x i) * X) h).symm

theorem errorLocator_coeff_zero (E : Finset ℕ) (x : ℕ → K) : (errorLocator E x).coeff 0 = 1 := by
  simp [errorLocator, coeff_zero_eq_eval_zero, eval_prod]

theorem errorLocator_natDegree_le (E : Finset ℕ) (x : ℕ → K) : (errorLocator E x).natDegree ≤ E.card := by
  have factor (i : ℕ) : (1 - C (x i) * X).natDegree ≤ 1 := by compute_degree
  have sum := sum_le_card_nsmul E _ 1 fun i _ => factor i
  rw [smul_eq_mul, mul_one] at sum
  exact (natDegree_prod_le E _).trans sum

theorem errorLocator_natDegree (nonzero : ∀ i ∈ E, x i ≠ 0) : (errorLocator E x).natDegree = E.card := by
  have factor (i : ℕ) (h : i ∈ E) : (1 - C (x i) * X).natDegree = 1 := by
    rw [show 1 - C (x i) * X = C (-x i) * X + C 1 by simp; ring]
    exact natDegree_linear (neg_ne_zero.mpr (nonzero i h))
  rw [errorLocator, natDegree_prod _ _ fun i h zero => by simpa [zero] using factor i h, sum_congr rfl factor]
  simp

/-- The roots of the locator are the inverses of the locators. -/
theorem errorLocator_eval_eq_zero {y : K} : (errorLocator E x).eval y = 0 ↔ ∃ i ∈ E, x i * y = 1 := by
  simp only [errorLocator, eval_prod, prod_eq_zero_iff, eval_sub, eval_one, eval_mul, eval_C, eval_X,
    sub_eq_zero, @eq_comm K 1]

theorem errorLocator_erase_eval_ne_zero (distinct : Set.InjOn x E) {i : ℕ} (hi : i ∈ E) {y : K}
    (hy : x i * y = 1) : (errorLocator (E.erase i) x).eval y ≠ 0 := by
  rw [Ne, errorLocator_eval_eq_zero]
  rintro ⟨l, hl, hly⟩
  obtain ⟨other, hl⟩ := mem_erase.mp hl
  exact other (distinct hl hi (mul_right_cancel₀ (right_ne_zero_of_mul_eq_one hy) (hly.trans hy.symm)))

/-- The derivative of the locator at the inverse of a locator. -/
theorem errorLocator_derivative_eval {i : ℕ} (hi : i ∈ E) {y : K} (hy : x i * y = 1) :
    (derivative (errorLocator E x)).eval y = -x i * (errorLocator (E.erase i) x).eval y := by
  rw [errorLocator_erase hi]
  simp [hy]

/-! ## The evaluator -/

theorem errorEvaluator_coeff_eq_zero {j : ℕ} (hj : E.card ≤ j) : (errorEvaluator E x e).coeff j = 0 := by
  rw [errorEvaluator, finsetSum_coeff]
  refine sum_eq_zero fun i hi => ?_
  have bound := errorLocator_natDegree_le (E.erase i) x
  have positive := card_pos.mpr ⟨i, hi⟩
  rw [card_erase_of_mem hi] at bound
  rw [coeff_C_mul, coeff_eq_zero_of_natDegree_lt (by omega), mul_zero]

theorem errorEvaluator_degree_lt (E : Finset ℕ) (x e : ℕ → K) : (errorEvaluator E x e).degree < E.card :=
  (degree_lt_iff_coeff_zero _ _).mpr fun _ hj => errorEvaluator_coeff_eq_zero hj

/-- At the inverse of a locator only the error there is left of the evaluator. -/
theorem errorEvaluator_eval {i : ℕ} (hi : i ∈ E) {y : K} (hy : x i * y = 1) :
    (errorEvaluator E x e).eval y = e i * (errorLocator (E.erase i) x).eval y := by
  rw [errorEvaluator, eval_finsetSum, sum_eq_single_of_mem i hi]
  · simp
  · intro l hl other
    have root : (errorLocator (E.erase l) x).eval y = 0 :=
      errorLocator_eval_eq_zero.mpr ⟨i, mem_erase.mpr ⟨other.symm, hi⟩, hy⟩
    simp [root]

/-- Forney's formula for the first root α^0 (43_reed_solomon.md R344). -/
theorem forney (distinct : Set.InjOn x E) {i : ℕ} (hi : i ∈ E) {y : K} (hy : x i * y = 1) :
    y⁻¹ * (errorEvaluator E x e).eval y * ((derivative (errorLocator E x)).eval y)⁻¹ = -e i := by
  have nonzero := left_ne_zero_of_mul_eq_one hy
  have others := errorLocator_erase_eval_ne_zero distinct hi hy
  rw [errorEvaluator_eval hi hy, errorLocator_derivative_eval hi hy, ← eq_inv_of_mul_eq_one_left hy]
  field_simp

/-! ## The key equation -/

/-- `S·Λ ≡ Ω`, up to the number of syndromes. -/
theorem key_equation (N : ℕ) (E : Finset ℕ) (x e : ℕ → K) :
    X ^ N ∣ syndromePoly N E x e * errorLocator E x - errorEvaluator E x e := by
  have geometric : syndromePoly N E x e = ∑ i ∈ E, C (e i) * ∑ j ∈ range N, (C (x i) * X) ^ j := by
    simp only [syndromePoly, map_sum, sum_mul, mul_sum]
    rw [sum_comm]
    refine sum_congr rfl fun i _ => sum_congr rfl fun j _ => ?_
    rw [mul_pow, map_mul, map_pow, mul_assoc]
  rw [geometric, errorEvaluator, sum_mul, ← sum_sub_distrib]
  refine dvd_sum fun i hi => ?_
  have rest : C (e i) * (∑ j ∈ range N, (C (x i) * X) ^ j) * errorLocator E x
      - C (e i) * errorLocator (E.erase i) x =
      X ^ N * (-(C (e i) * C (x i) ^ N * errorLocator (E.erase i) x)) := by
    have sum := mul_neg_geom_sum (C (x i) * X) N
    rw [mul_pow] at sum
    rw [errorLocator_erase hi]
    linear_combination (C (e i) * errorLocator (E.erase i) x) * sum
  exact rest ▸ dvd_mul_right _ _

theorem key_equation_coeff {N j : ℕ} (h : j < N) :
    (syndromePoly N E x e * errorLocator E x).coeff j = (errorEvaluator E x e).coeff j := by
  rw [← sub_eq_zero, ← coeff_sub]
  exact X_pow_dvd_iff.mp (key_equation N E x e) j h

/-- Past the number of errors, the locator is an LFSR that generates the syndromes. -/
theorem errorLocator_generates {N j : ℕ} (hj : E.card ≤ j) (hN : j < N) :
    (syndromePoly N E x e * errorLocator E x).coeff j = 0 :=
  (key_equation_coeff hN).trans (errorEvaluator_coeff_eq_zero hj)

/-- No pattern of errors, as few as there are syndromes, has all of them 0 (43_reed_solomon.md R342). -/
theorem syndromePoly_ne_zero {N : ℕ} (distinct : Set.InjOn x E) (nonzero : ∀ i ∈ E, x i ≠ 0)
    (errors : ∀ i ∈ E, e i ≠ 0) (few : E.card ≤ N) (some : E.Nonempty) : syndromePoly N E x e ≠ 0 := by
  intro zero
  have divides := key_equation N E x e
  rw [zero, zero_mul, zero_sub, dvd_neg] at divides
  have evaluator : errorEvaluator E x e = 0 := eq_zero_of_dvd_of_degree_lt divides <| by
    rw [degree_X_pow]
    exact (errorEvaluator_degree_lt E x e).trans_le (by exact_mod_cast few)
  obtain ⟨i, hi⟩ := some
  have value := errorEvaluator_eval (e := e) hi (mul_inv_cancel₀ (nonzero i hi))
  rw [evaluator, eval_zero, eq_comm, mul_eq_zero] at value
  exact value.elim (errors i hi)
    (errorLocator_erase_eval_ne_zero distinct hi (mul_inv_cancel₀ (nonzero i hi)))

/-- A product that vanishes from `L` on is, up to `N`, a polynomial of degree below `L`. -/
theorem exists_numerator {N L : ℕ} {P : K[X]} (vanishes : ∀ j, L ≤ j → j < N → P.coeff j = 0) :
    ∃ V : K[X], V.degree < L ∧ X ^ N ∣ P - V := by
  have divides : X ^ N ∣ P - P %ₘ X ^ N :=
    ⟨P /ₘ X ^ N, sub_eq_iff_eq_add'.mpr (modByMonic_add_div P (X ^ N)).symm⟩
  refine ⟨P %ₘ X ^ N, (degree_lt_iff_coeff_zero _ _).mpr fun j hj => ?_, divides⟩
  by_cases hN : j < N
  · have same := X_pow_dvd_iff.mp divides j hN
    rwa [coeff_sub, vanishes j hj hN, zero_sub, neg_eq_zero] at same
  · have low : (P %ₘ X ^ N).degree < N := by
      simpa using degree_modByMonic_lt P (monic_X_pow (R := K) N)
    exact (degree_lt_iff_coeff_zero _ _).mp low j (by omega)

theorem degree_mul_lt {P Q : K[X]} {a b : ℕ} (hP : P.natDegree ≤ a) (hQ : Q.degree < b) :
    (P * Q).degree < (a + b : ℕ) := by
  by_cases zero : Q = 0
  · rw [zero, mul_zero, degree_zero]
    exact WithBot.bot_lt_coe _
  · have low := (natDegree_lt_iff_degree_lt zero).mpr hQ
    have product := natDegree_mul_le (p := P) (q := Q)
    exact degree_le_natDegree.trans_lt (by exact_mod_cast (by omega : (P * Q).natDegree < a + b))

/-- An LFSR of length at most the number of errors that generates twice as many syndromes vanishes where the
locator does. -/
theorem eval_eq_zero_of_generates {N L : ℕ} (distinct : Set.InjOn x E) (errors : ∀ i ∈ E, e i ≠ 0)
    (few : 2 * E.card ≤ N) (short : L ≤ E.card) {Q : K[X]} (degree : Q.natDegree ≤ L)
    (generates : ∀ j, L ≤ j → j < N → (syndromePoly N E x e * Q).coeff j = 0) {i : ℕ} (hi : i ∈ E) {y : K}
    (hy : x i * y = 1) : Q.eval y = 0 := by
  obtain ⟨V, lowV, hV⟩ := exists_numerator generates
  have lowE := errorEvaluator_degree_lt E x e
  have divides : X ^ N ∣ Q * errorEvaluator E x e - V * errorLocator E x := by
    have both := ((hV.mul_right (errorLocator E x)).sub ((key_equation N E x e).mul_right Q))
    convert both using 1
    ring
  have low : (Q * errorEvaluator E x e - V * errorLocator E x).degree < N := by
    have left := degree_mul_lt degree lowE
    have right := degree_mul_lt (errorLocator_natDegree_le E x) lowV
    rw [mul_comm] at right
    exact (degree_sub_le _ _).trans_lt (max_lt (left.trans_le (by exact_mod_cast (by omega : L + E.card ≤ N)))
      (right.trans_le (by exact_mod_cast (by omega : E.card + L ≤ N))))
  have cross : Q * errorEvaluator E x e = V * errorLocator E x :=
    sub_eq_zero.mp (eq_zero_of_dvd_of_degree_lt divides (by rwa [degree_X_pow]))
  have value := congrArg (eval y) cross
  rw [eval_mul, eval_mul, errorEvaluator_eval hi hy, errorLocator_eval_eq_zero.mpr ⟨i, hi, hy⟩, mul_zero] at value
  exact (mul_eq_zero.mp value).resolve_right
    (mul_ne_zero (errors i hi) (errorLocator_erase_eval_ne_zero distinct hi hy))

/-- Such an LFSR, with constant coefficient 1, is the locator. -/
theorem eq_errorLocator_of_generates {N L : ℕ} (distinct : Set.InjOn x E) (nonzero : ∀ i ∈ E, x i ≠ 0)
    (errors : ∀ i ∈ E, e i ≠ 0) (few : 2 * E.card ≤ N) (short : L ≤ E.card) {Q : K[X]} (one : Q.coeff 0 = 1)
    (degree : Q.natDegree ≤ L) (generates : ∀ j, L ≤ j → j < N → (syndromePoly N E x e * Q).coeff j = 0) :
    Q = errorLocator E x := by
  classical
  have fresh : (0 : K) ∉ E.image fun i => (x i)⁻¹ := by simpa using nonzero
  have points : (insert 0 (E.image fun i => (x i)⁻¹)).card = E.card + 1 := by
    rw [card_insert_of_notMem fresh, card_image_of_injOn fun i hi l hl same => distinct hi hl (inv_injective same)]
  have low {P : K[X]} (h : P.natDegree ≤ E.card) : P.degree < (insert 0 (E.image fun i => (x i)⁻¹)).card := by
    rw [points]
    exact degree_le_natDegree.trans_lt (by exact_mod_cast Nat.lt_succ_of_le h)
  refine eq_of_degrees_lt_of_eval_finset_eq _ (low (degree.trans short)) (low (errorLocator_natDegree_le E x)) ?_
  intro y hy
  rcases mem_insert.mp hy with rfl | hy
  · rw [← coeff_zero_eq_eval_zero, ← coeff_zero_eq_eval_zero, one, errorLocator_coeff_zero]
  · obtain ⟨i, hi, rfl⟩ := mem_image.mp hy
    have inverse := mul_inv_cancel₀ (nonzero i hi)
    rw [eval_eq_zero_of_generates distinct errors few short degree generates hi inverse,
      errorLocator_eval_eq_zero.mpr ⟨i, hi, inverse⟩]

end

end Sys2Proof.Machine
end


section
/-! SUPPORT. The coefficient lists of the model as polynomials over a field that reads the bytes
(43_reed_solomon.md R340–R342). -/

namespace Sys2Proof.Machine

open Polynomial

section
variable {K : Type} [Field K] {v : Byte → K}

/-! ## Bytes -/

namespace GfReading
variable (hv : GfReading v)
include hv

theorem zero : v 0 = 0 := by simpa using hv.xor 0 0

theorem eq_zero_iff {a : Byte} : v a = 0 ↔ a = 0 := by rw [← hv.zero, hv.injective.eq_iff]

theorem add_self (a : Byte) : v a + v a = 0 := by rw [← hv.xor, BitVec.xor_self, ← hv.zero]; rfl

theorem charTwo : CharP K 2 := by
  have two : (2 : K) = 0 := by rw [← one_add_one_eq_two, ← hv.one, hv.add_self]
  exact CharTwo.of_one_ne_zero_of_two_eq_zero one_ne_zero two

theorem inv (a : Byte) : v (gfInv a) = (v a)⁻¹ := by
  by_cases h : a = 0
  · rw [h, gfInv_zero, hv.zero, inv_zero]
  · refine eq_inv_of_mul_eq_one_right ?_
    rw [← hv.mul, gfMul_gfInv h, hv.one]

theorem double (a : Byte) : v (gfDouble a) = v 2 * v a := by rw [gfDouble_eq_mul, hv.mul]

theorem foldl_xor (l : List Byte) (acc : Byte) : v (l.foldl (· ^^^ ·) acc) = v acc + (l.map v).sum := by
  induction l generalizing acc with
  | nil => simp
  | cons a l ih => rw [List.foldl_cons, ih, hv.xor, List.map_cons, List.sum_cons, add_assoc]

end GfReading

/-! ## Coefficient lists -/

/-- The polynomial a list of coefficients stands for, the lowest degree first. -/
noncomputable def toPoly (v : Byte → K) : List Byte → K[X]
  | [] => 0
  | a :: p => C (v a) + X * toPoly v p

@[simp] theorem toPoly_nil : toPoly v [] = 0 := rfl

@[simp] theorem toPoly_cons (a : Byte) (p : List Byte) : toPoly v (a :: p) = C (v a) + X * toPoly v p := rfl

theorem toPoly_append (p q : List Byte) : toPoly v (p ++ q) = toPoly v p + X ^ p.length * toPoly v q := by
  induction p with
  | nil => simp
  | cons a p ih => simp only [List.cons_append, toPoly_cons, ih, List.length_cons]; ring

section
variable (hv : GfReading v)
include hv

theorem toPoly_coeff (p : List Byte) (i : ℕ) : (toPoly v p).coeff i = v (p.getD i 0) := by
  induction p generalizing i with
  | nil => simpa using hv.zero.symm
  | cons a p ih =>
    cases i with
    | zero => simp
    | succ i => simpa [coeff_C] using ih i

theorem toPoly_replicate_zero (n : ℕ) : toPoly v (List.replicate n 0) = 0 := by
  induction n with
  | zero => rfl
  | succ n ih => rw [List.replicate_succ, toPoly_cons, ih, hv.zero, C_0, mul_zero, add_zero]

theorem toPoly_polyAdd (p q : List Byte) : toPoly v (polyAdd p q) = toPoly v p + toPoly v q := by
  induction p, q using polyAdd.induct with
  | case1 q => simp [polyAdd]
  | case2 p h => cases p <;> simp [polyAdd]
  | case3 a p b q ih => simp only [polyAdd, toPoly_cons, hv.xor, ih, C_add]; ring

theorem toPoly_polyScale (k : Byte) (p : List Byte) : toPoly v (polyScale k p) = C (v k) * toPoly v p := by
  induction p with
  | nil => simp [polyScale]
  | cons a p ih =>
    rw [show polyScale k (a :: p) = gfMul k a :: polyScale k p from rfl, toPoly_cons, ih, hv.mul, C_mul, toPoly_cons]
    ring

theorem toPoly_polyMul (p q : List Byte) : toPoly v (polyMul p q) = toPoly v p * toPoly v q := by
  induction p with
  | nil => simp [polyMul]
  | cons a p ih =>
    rw [polyMul, toPoly_polyAdd hv, toPoly_polyScale hv, toPoly_cons, ih, hv.zero, C_0, toPoly_cons]
    ring

theorem polyEval_eq_eval (p : List Byte) (y : Byte) : v (polyEval p y) = (toPoly v p).eval (v y) := by
  induction p with
  | nil => simpa [polyEval] using hv.zero
  | cons a p ih => simp [polyEval, hv.xor, hv.mul, ih]

/-- The odd coefficients are the derivative, the even ones vanishing in characteristic 2. -/
theorem toPoly_polyDerivative (p : List Byte) : toPoly v (polyDerivative p) = derivative (toPoly v p) := by
  have := hv.charTwo
  ext i
  have listed : (polyDerivative p).getD i 0 = if (i + 1) % 2 = 1 then p.getD (i + 1) 0 else 0 := by
    simp only [polyDerivative, List.getD_eq_getElem?_getD, List.getElem?_drop, List.getElem?_map,
      List.getElem?_zipIdx, Nat.add_comm 1 i]
    cases p[i + 1]? <;> simp
  rw [toPoly_coeff hv, listed, coeff_derivative, toPoly_coeff hv, ← Nat.cast_succ, CharTwo.natCast_eq_mod]
  rcases Nat.mod_two_eq_zero_or_one i.succ with even | odd
  · rw [even, if_neg (by omega), hv.zero, Nat.cast_zero, mul_zero]
  · rw [odd, if_pos rfl, Nat.cast_one, mul_one]

theorem toPoly_take (p : List Byte) (n i : ℕ) :
    (toPoly v (p.take n)).coeff i = if i < n then (toPoly v p).coeff i else 0 := by
  simp only [toPoly_coeff hv, List.getD_eq_getElem?_getD, List.getElem?_take]
  split
  · rfl
  · exact hv.zero

theorem toPoly_take_of_natDegree {p : List Byte} {n : ℕ} (h : (toPoly v p).natDegree ≤ n) :
    toPoly v (p.take (n + 1)) = toPoly v p := by
  ext i
  rw [toPoly_take hv, ite_eq_left_iff]
  exact fun high => (coeff_eq_zero_of_natDegree_lt (by omega)).symm

end

/-! ## Trimming -/

theorem polyTrim_concat (p : List Byte) (a : Byte) :
    polyTrim (p ++ [a]) = if a = 0 then polyTrim p else p ++ [a] := by
  simpa [polyTrim, List.rdropWhile] using List.rdropWhile_concat (· == 0) p a

section
variable (hv : GfReading v)
include hv

theorem toPoly_concat_zero (p : List Byte) : toPoly v (p ++ [0]) = toPoly v p := by
  rw [toPoly_append, toPoly_cons, hv.zero, C_0, toPoly_nil, mul_zero, add_zero, mul_zero, add_zero]

theorem toPoly_polyTrim (p : List Byte) : toPoly v (polyTrim p) = toPoly v p := by
  induction p using List.reverseRecOn with
  | nil => rfl
  | append_singleton p a ih =>
    rw [polyTrim_concat]
    split
    case isTrue zero => rw [ih, zero, toPoly_concat_zero hv]
    case isFalse => rfl

/-- The degree the decoder reads off a trimmed list is the polynomial's (43_reed_solomon.md R344: `v := deg Λ`). -/
theorem polyTrim_length (p : List Byte) : (polyTrim p).length - 1 = (toPoly v p).natDegree := by
  induction p using List.reverseRecOn with
  | nil => simp [polyTrim]
  | append_singleton p a ih =>
    rw [polyTrim_concat]
    split
    case isTrue zero => rw [ih, zero, toPoly_concat_zero hv]
    case isFalse nonzero =>
      have top : (toPoly v (p ++ [a])).coeff p.length ≠ 0 := by
        simpa [toPoly_coeff hv] using hv.eq_zero_iff.not.mpr nonzero
      refine (natDegree_eq_of_le_of_coeff_ne_zero ?_ (by simpa using top)).symm
      refine natDegree_le_iff_coeff_eq_zero.mpr fun i hi => ?_
      rw [toPoly_coeff hv, List.getD_eq_default _ _ (by simp at hi ⊢; omega), hv.zero]

end
end

end Sys2Proof.Machine
end


section
/-! SUPPORT. The Berlekamp–Massey iteration (43_reed_solomon.md R344): the invariant of its steps, that it
generates the syndromes, and Massey's bound on its length. -/

namespace Sys2Proof.Machine

open Polynomial Finset

section
variable {K : Type} [Field K]

/-- Where a factor vanishes on `L … n − 1` and the other has degree at most `n − L`, one term is left of
coefficient `n` of their product. -/
theorem coeff_mul_of_gap {P Q : K[X]} {L a n : ℕ} (gap : ∀ j, L ≤ j → j < n → P.coeff j = 0)
    (degree : Q.natDegree ≤ a) (room : L + a ≤ n) : (P * Q).coeff n = P.coeff n * Q.coeff 0 := by
  rw [coeff_mul, sum_eq_single_of_mem (n, 0) (by simp)]
  rintro ⟨i, j⟩ hij other
  obtain rfl : i + j = n := mem_antidiagonal.mp hij
  have positive : j ≠ 0 := by rintro rfl; exact other rfl
  by_cases high : Q.natDegree < j
  · rw [coeff_eq_zero_of_natDegree_lt high, mul_zero]
  · rw [gap i (by omega) (by omega), zero_mul]

/-- Massey's bound: an LFSR of length `L` that fails at syndrome `n`, and one of length `a` that does not, have
`n < L + a`. -/
theorem massey_bound {S P Q : K[X]} {L a n : ℕ} (degreeP : P.natDegree ≤ L) (degreeQ : Q.natDegree ≤ a)
    (oneQ : Q.coeff 0 = 1) (generates : ∀ j, L ≤ j → j < n → (S * P).coeff j = 0) (fails : (S * P).coeff n ≠ 0)
    (generatesQ : ∀ j, a ≤ j → j ≤ n → (S * Q).coeff j = 0) : n < L + a := by
  by_contra! room
  have left := coeff_mul_of_gap generates degreeQ room
  have right := coeff_mul_of_gap (fun j low high => generatesQ j low high.le) degreeP (by omega : a + L ≤ n)
  rw [oneQ, mul_one] at left
  rw [generatesQ n (by omega) le_rfl, zero_mul] at right
  rw [mul_right_comm, left] at right
  exact fails right

variable {v : Byte → K}

/-- `x^gap · B`, the polynomial a step adds a multiple of. -/
noncomputable def LfsrState.shifted (v : Byte → K) (s : LfsrState) : K[X] := X ^ s.gap * toPoly v s.prev

/-- What the iteration keeps when `n` syndromes are done: the connection polynomial generates them, and
`x^gap · B` generates those before them but fails at the next, with the kept discrepancy. Before the first length
change nothing is asked of `B`. -/
structure LfsrState.Sound (v : Byte → K) (S : K[X]) (s : LfsrState) (n : ℕ) : Prop where
  one : (toPoly v s.conn).coeff 0 = 1
  degree : (toPoly v s.conn).natDegree ≤ s.len
  generates : ∀ j, s.len ≤ j → j < n → (S * toPoly v s.conn).coeff j = 0
  len_le : s.len ≤ n
  gap_pos : 0 < s.gap
  shifted_degree : (s.shifted v).natDegree ≤ n + 1 - s.len
  shifted_generates : ∀ j, n + 1 - s.len ≤ j → j < n → (S * s.shifted v).coeff j = 0
  shifted_fails : s.len = 0 ∨ (S * s.shifted v).coeff n = v s.prevDisc
  prevDisc : s.prevDisc ≠ 0

/-- The connection polynomial that corrects a discrepancy `d`. -/
def LfsrState.corrected (s : LfsrState) (d : Byte) : List Byte :=
  polyAdd s.conn (polyScale (gfMul d (gfInv s.prevDisc)) (List.replicate s.gap 0 ++ s.prev))

/-- A step keeps the polynomial, corrects it, or corrects it with a length change. -/
theorem lfsrStep_cases (s : LfsrState) (n : ℕ) (past : List Byte) :
    (discrepancy s.conn past s.len = 0 ∧ lfsrStep s n past = { s with gap := s.gap + 1 }) ∨
    (discrepancy s.conn past s.len ≠ 0 ∧ 2 * s.len ≤ n ∧ lfsrStep s n past =
      ⟨s.corrected (discrepancy s.conn past s.len), s.conn, n + 1 - s.len, 1, discrepancy s.conn past s.len⟩) ∨
    (discrepancy s.conn past s.len ≠ 0 ∧ n < 2 * s.len ∧ lfsrStep s n past =
      { s with conn := s.corrected (discrepancy s.conn past s.len), gap := s.gap + 1 }) := by
  simp only [lfsrStep]
  split
  case isTrue zero => exact .inl ⟨zero, rfl⟩
  case isFalse nonzero =>
    split
    case isTrue change => exact .inr (.inl ⟨nonzero, change, rfl⟩)
    case isFalse keep => exact .inr (.inr ⟨nonzero, by omega, rfl⟩)

section
variable (hv : GfReading v) {S : K[X]} {s : LfsrState} {n : ℕ} {past : List Byte}
include hv

theorem toPoly_corrected (s : LfsrState) (d : Byte) :
    toPoly v (s.corrected d) = toPoly v s.conn + C (v d * (v s.prevDisc)⁻¹) * s.shifted v := by
  rw [LfsrState.corrected, toPoly_polyAdd hv, toPoly_polyScale hv, toPoly_append, toPoly_replicate_zero hv,
    List.length_replicate, zero_add, hv.mul, hv.inv, LfsrState.shifted]

namespace LfsrState.Sound
variable (h : s.Sound v S n)
include h

omit hv in
theorem shifted_coeff_zero : (s.shifted v).coeff 0 = 0 := by
  rw [LfsrState.shifted, coeff_X_pow_mul', if_neg h.gap_pos.not_ge]

theorem corrected_one (d : Byte) : (toPoly v (s.corrected d)).coeff 0 = 1 := by
  rw [toPoly_corrected hv, coeff_add, coeff_C_mul, h.shifted_coeff_zero, mul_zero, add_zero, h.one]

theorem corrected_degree (d : Byte) :
    (toPoly v (s.corrected d)).natDegree ≤ max s.len (n + 1 - s.len) := by
  rw [toPoly_corrected hv]
  exact (natDegree_add_le _ _).trans
    (max_le_max h.degree ((natDegree_C_mul_le _ _).trans h.shifted_degree))

/-- The correction spoils no syndrome done, and takes the discrepancy away. -/
theorem corrected_generates {d : Byte} (hd : v d = (S * toPoly v s.conn).coeff n) {j : ℕ}
    (low : max s.len (n + 1 - s.len) ≤ j) (high : j < n + 1) : (S * toPoly v (s.corrected d)).coeff j = 0 := by
  have split : (S * toPoly v (s.corrected d)).coeff j = (S * toPoly v s.conn).coeff j +
      v d * (v s.prevDisc)⁻¹ * (S * s.shifted v).coeff j := by
    rw [toPoly_corrected hv, mul_add, coeff_add, mul_left_comm, coeff_C_mul]
  obtain ⟨lowLen, lowGap⟩ := max_le_iff.mp low
  rw [split]
  rcases Nat.lt_succ_iff_lt_or_eq.mp high with done | rfl
  · rw [h.generates j lowLen done, h.shifted_generates j lowGap done, mul_zero, add_zero]
  · have fails := h.shifted_fails.resolve_left (by omega)
    rw [fails, ← hd, inv_mul_cancel_right₀ (hv.eq_zero_iff.not.mpr h.prevDisc), hv.add_self]

omit hv in
/-- A step without a length change. -/
theorem keep {c : List Byte} (one : (toPoly v c).coeff 0 = 1) (degree : (toPoly v c).natDegree ≤ s.len)
    (generates : ∀ j, s.len ≤ j → j < n + 1 → (S * toPoly v c).coeff j = 0) :
    LfsrState.Sound v S { s with conn := c, gap := s.gap + 1 } (n + 1) := by
  have shifted : LfsrState.shifted v { s with conn := c, gap := s.gap + 1 } = X * s.shifted v := by
    simp only [LfsrState.shifted]
    ring
  have moved (j : ℕ) : (S * LfsrState.shifted v { s with conn := c, gap := s.gap + 1 }).coeff (j + 1) =
      (S * s.shifted v).coeff j := by
    rw [shifted, mul_left_comm, coeff_X_mul]
  have len_le := h.len_le
  refine ⟨one, degree, generates, by simp only; omega, Nat.succ_pos _, ?_, ?_,
    h.shifted_fails.imp_right (moved n).trans, h.prevDisc⟩
  · have bound := h.shifted_degree
    rw [shifted]
    refine natDegree_mul_le.trans ?_
    rw [natDegree_X]
    simp only
    omega
  · intro j low high
    obtain ⟨i, rfl⟩ := Nat.exists_eq_add_one_of_ne_zero (n := j) (by simp only at low; omega)
    rw [moved]
    exact h.shifted_generates i (by simp only at low; omega) (by omega)

/-- A step with a length change: the connection polynomial it leaves behind fails at syndrome `n`. -/
theorem change {d : Byte} (hd : v d = (S * toPoly v s.conn).coeff n) (nonzero : d ≠ 0) (short : 2 * s.len ≤ n) :
    LfsrState.Sound v S ⟨s.corrected d, s.conn, n + 1 - s.len, 1, d⟩ (n + 1) := by
  have longer : max s.len (n + 1 - s.len) = n + 1 - s.len := max_eq_right (by omega)
  have shifted : LfsrState.shifted v ⟨s.corrected d, s.conn, n + 1 - s.len, 1, d⟩ = X * toPoly v s.conn := by
    simp only [LfsrState.shifted, pow_one]
  have moved (j : ℕ) : (S * LfsrState.shifted v ⟨s.corrected d, s.conn, n + 1 - s.len, 1, d⟩).coeff (j + 1) =
      (S * toPoly v s.conn).coeff j := by
    rw [shifted, mul_left_comm, coeff_X_mul]
  refine ⟨h.corrected_one hv d, (h.corrected_degree hv d).trans longer.le,
    fun j low high => h.corrected_generates hv hd (longer.le.trans low) high, by simp only; omega, Nat.one_pos,
    ?_, ?_, .inr ((moved n).trans hd.symm), nonzero⟩
  · have bound := h.degree
    rw [shifted]
    refine natDegree_mul_le.trans ?_
    rw [natDegree_X]
    simp only
    omega
  · intro j low high
    obtain ⟨i, rfl⟩ := Nat.exists_eq_add_one_of_ne_zero (n := j) (by simp only at low; omega)
    rw [moved]
    exact h.generates i (by simp only at low; omega) (by omega)

/-- Every step keeps the invariant, its discrepancy being the next coefficient of `S · Λ`. -/
theorem next (hd : v (discrepancy s.conn past s.len) = (S * toPoly v s.conn).coeff n) :
    (lfsrStep s n past).Sound v S (n + 1) := by
  rcases lfsrStep_cases s n past with ⟨zero, eq⟩ | ⟨nonzero, short, eq⟩ | ⟨-, long, eq⟩ <;> rw [eq]
  · rw [zero, hv.zero] at hd
    refine h.keep h.one h.degree fun j low high => ?_
    rcases Nat.lt_succ_iff_lt_or_eq.mp high with done | rfl
    · exact h.generates j low done
    · exact hd.symm
  · exact h.change hv hd nonzero short
  · have same : max s.len (n + 1 - s.len) = s.len := max_eq_left (by omega)
    exact h.keep (h.corrected_one hv _) ((h.corrected_degree hv _).trans same.le)
      fun j low high => h.corrected_generates hv hd (same.le.trans low) high

/-- No LFSR that generates the syndromes is shorter than the one the iteration has. -/
theorem lfsrStep_len_le (hd : v (discrepancy s.conn past s.len) = (S * toPoly v s.conn).coeff n) {Q : K[X]} {a : ℕ}
    (degreeQ : Q.natDegree ≤ a) (oneQ : Q.coeff 0 = 1) (generatesQ : ∀ j, a ≤ j → j ≤ n → (S * Q).coeff j = 0)
    (short : s.len ≤ a) : (lfsrStep s n past).len ≤ a := by
  rcases lfsrStep_cases s n past with ⟨-, eq⟩ | ⟨nonzero, -, eq⟩ | ⟨-, -, eq⟩ <;> rw [eq]
  · exact short
  · have fails : (S * toPoly v s.conn).coeff n ≠ 0 := hd ▸ hv.eq_zero_iff.not.mpr nonzero
    have bound := massey_bound h.degree degreeQ oneQ h.generates fails generatesQ
    simp only
    omega
  · exact short

end LfsrState.Sound

/-! ## The run -/

theorem foldl_gfMul_zip (p q : List Byte) : v (((p.zip q).map fun c => gfMul c.1 c.2).foldl (· ^^^ ·) 0) =
    ∑ i ∈ range q.length, v (p.getD i 0) * v (q.getD i 0) := by
  rw [hv.foldl_xor, hv.zero, zero_add]
  induction p generalizing q with
  | nil => simp [show v 0#8 = 0 from hv.zero]
  | cons a p ih =>
    cases q with
    | nil => simp
    | cons b q =>
      rw [List.length_cons, sum_range_succ', List.zip_cons_cons, List.map_cons, List.map_cons, List.sum_cons, ih,
        hv.mul, add_comm]
      rfl

/-- The discrepancy is the next coefficient of `S · Λ`. -/
theorem discrepancy_eq_coeff {conn : List Byte} {len : ℕ} (degree : (toPoly v conn).natDegree ≤ len) (x : Byte)
    (past todo : List Byte) : v (discrepancy conn (x :: past) len) =
      (toPoly v ((x :: past).reverse ++ todo) * toPoly v conn).coeff past.length := by
  rw [discrepancy, foldl_gfMul_zip hv, mul_comm, coeff_mul, ← toPoly_take_of_natDegree hv degree,
    Nat.sum_antidiagonal_eq_sum_range_succ fun i j => (toPoly v (conn.take (len + 1))).coeff i *
      (toPoly v ((x :: past).reverse ++ todo)).coeff j]
  refine sum_congr rfl fun i hi => ?_
  have inside : i < past.length + 1 := mem_range.mp hi
  rw [toPoly_coeff hv, toPoly_coeff hv]
  have listed : ((x :: past).reverse ++ todo)[past.length - i]? = (x :: past)[i]? := by
    rw [List.getElem?_append_left (by simp), List.getElem?_reverse (by simp)]
    congr 1
    simp only [List.length_cons]
    omega
  rw [List.getD_eq_getElem?_getD, List.getD_eq_getElem?_getD, List.getD_eq_getElem?_getD, listed]

/-- From any point on, the run keeps the invariant and stays no longer than an LFSR that generates all syndromes. -/
theorem lfsrRun_sound {Q : K[X]} {a : ℕ} (degreeQ : Q.natDegree ≤ a) (oneQ : Q.coeff 0 = 1)
    {past todo : List Byte} (generatesQ : ∀ j, a ≤ j → j < (past.reverse ++ todo).length →
      (toPoly v (past.reverse ++ todo) * Q).coeff j = 0)
    (h : s.Sound v (toPoly v (past.reverse ++ todo)) past.length) (short : s.len ≤ a) :
    (lfsrRun s past.length past todo).Sound v (toPoly v (past.reverse ++ todo)) (past.reverse ++ todo).length ∧
      (lfsrRun s past.length past todo).len ≤ a := by
  induction todo generalizing s past with
  | nil =>
    refine ⟨?_, short⟩
    simpa [lfsrRun] using h
  | cons x todo ih =>
    have next : past.reverse ++ x :: todo = (x :: past).reverse ++ todo := by simp
    rw [next] at h generatesQ ⊢
    have hd := discrepancy_eq_coeff hv h.degree x past todo
    exact ih generatesQ (h.next hv hd) (h.lfsrStep_len_le hv hd degreeQ oneQ
      (fun j low high => generatesQ j low (by simp; omega)) short)

theorem berlekampMassey_sound {Q : K[X]} {a : ℕ} (degreeQ : Q.natDegree ≤ a) (oneQ : Q.coeff 0 = 1)
    {p : List Byte} (generatesQ : ∀ j, a ≤ j → j < p.length → (toPoly v p * Q).coeff j = 0) :
    (berlekampMassey p).Sound v (toPoly v p) p.length ∧ (berlekampMassey p).len ≤ a := by
  have start : LfsrState.Sound v (toPoly v p) ⟨[1], [1], 0, 1, 1⟩ 0 := by
    have unit : toPoly v [1] = 1 := by rw [toPoly_cons, toPoly_nil, hv.one, C_1, mul_zero, add_zero]
    refine ⟨by rw [unit, coeff_one_zero], by rw [unit, natDegree_one], by omega, le_rfl, Nat.one_pos, ?_, by omega,
      .inl rfl, by decide⟩
    rw [LfsrState.shifted, unit, pow_one, mul_one]
    exact natDegree_X_le
  exact lfsrRun_sound hv (past := []) degreeQ oneQ generatesQ start (Nat.zero_le _)

end
end

end Sys2Proof.Machine
end


section
/-! SUPPORT. The Reed–Solomon decoder and `RSDEC` (43_reed_solomon.md R341–R345, R350): the syndromes of a block near
a codeword, the Chien search, the corrections, what the decoder answers and the command past its checks. -/

namespace Sys2Proof.Machine

open Polynomial Finset Claims

section
variable {K : Type} [Field K] {v : Byte → K}

/-! ## The powers of α (43_reed_solomon.md R340) -/

theorem gfPowersFrom_length (n : ℕ) (a : Byte) : (gfPowersFrom n a).length = n := by
  induction n generalizing a with
  | zero => rfl
  | succ n ih => rw [gfPowersFrom, List.length_cons, ih]

theorem gfPowersFrom_getElem? (hv : GfReading v) {n : ℕ} {a b : Byte} {i : ℕ}
    (h : (gfPowersFrom n a)[i]? = some b) : v b = v a * v 2 ^ i := by
  induction n generalizing a i with
  | zero => simp [gfPowersFrom] at h
  | succ n ih =>
    cases i with
    | zero => rw [← Option.some.inj h, pow_zero, mul_one]
    | succ i => rw [ih h, hv.double]; ring

theorem exists_gfPowersFrom {n i : ℕ} (h : i < n) (a : Byte) : ∃ b, (gfPowersFrom n a)[i]? = some b :=
  ⟨_, List.getElem?_eq_getElem (by rwa [gfPowersFrom_length])⟩

theorem gfPowersFrom_returns : (gfPowersFrom 256 1)[255]? = some 1 := by decide +kernel

theorem one_notMem_gfPowersFrom : 1 ∉ gfPowersFrom 254 2 := by decide +kernel

/-- α is primitive: its powers below 255 are distinct. -/
theorem orderOf_alpha (hv : GfReading v) : orderOf (v 2) = 255 := by
  refine (orderOf_eq_iff (by omega)).mpr ⟨?_, fun m high low one => ?_⟩
  · have power := gfPowersFrom_getElem? hv gfPowersFrom_returns
    rwa [hv.one, one_mul, eq_comm] at power
  · obtain ⟨b, hb⟩ := exists_gfPowersFrom (show m - 1 < 254 by omega) 2
    have power := gfPowersFrom_getElem? hv hb
    rw [← pow_succ', Nat.sub_add_cancel low, one, ← hv.one] at power
    exact one_notMem_gfPowersFrom (hv.injective power ▸ List.mem_of_getElem? hb)

theorem alpha_ne_zero (hv : GfReading v) : v 2 ≠ 0 := hv.eq_zero_iff.not.mpr (by decide)

/-! ## Syndromes (43_reed_solomon.md R341, R342) -/

theorem blockEval_eq_sum (hv : GfReading v) (r : List Byte) (y : Byte) :
    v (blockEval r y) = ∑ k ∈ range r.length, v (r.getD k 0) * v y ^ (r.length - 1 - k) := by
  induction r using List.reverseRecOn with
  | nil => exact hv.zero
  | append_singleton r b ih =>
    have step : blockEval (r ++ [b]) y = gfMul (blockEval r y) y ^^^ b := by simp [blockEval]
    have last : (r ++ [b]).getD r.length 0 = b := by simp
    rw [step, hv.xor, hv.mul, ih, List.length_append, List.length_singleton, sum_range_succ, last, sum_mul,
      Nat.add_sub_cancel, Nat.sub_self, pow_zero, mul_one]
    congr 1
    refine sum_congr rfl fun k hk => ?_
    have inside : k < r.length := mem_range.mp hk
    rw [List.getD_append _ _ _ _ inside, mul_assoc, ← pow_succ]
    congr 3
    omega

theorem syndromes_length (r : List Byte) : (syndromes r).length = 10 := by
  rw [syndromes, List.length_map, gfPowersFrom_length, rsParity]

/-- The locator of an error in byte `k` of a block (43_reed_solomon.md R341). -/
def blockLocator (v : Byte → K) (k : ℕ) : K := v 2 ^ (119 - k)

/-- The value of an error in byte `k` of a block. -/
def blockError (v : Byte → K) (r c : List Byte) (k : ℕ) : K := v (r.getD k 0 ^^^ c.getD k 0)

/-- The bytes of a block in error. -/
def errorPositions (r c : List Byte) : Finset ℕ := {k ∈ range r.length | r.getD k 0 ≠ c.getD k 0}

theorem errorPositions_subset {r c : List Byte} (h : r.length = 120) : errorPositions r c ⊆ range 120 := by
  rw [errorPositions, h]
  exact filter_subset _ _

theorem hammingDistance_eq_card {r c : List Byte} (h : r.length = c.length) :
    hammingDistance r c = (errorPositions r c).card := by
  rw [errorPositions, card_filter]
  induction r generalizing c with
  | nil => rfl
  | cons a r ih =>
    cases c with
    | nil => simp at h
    | cons b c =>
      rw [List.length_cons, sum_range_succ']
      simp only [List.getD_cons_succ, List.getD_cons_zero]
      rw [← ih (by simpa using h)]
      by_cases same : a = b <;> simp [hammingDistance, same]

theorem syndrome_eq_sum (hv : GfReading v) {r : List Byte} (length : r.length = 120) {j : ℕ} (hj : j < 10) :
    v ((syndromes r).getD j 0) = ∑ k ∈ range 120, v (r.getD k 0) * blockLocator v k ^ j := by
  obtain ⟨b, hb⟩ := exists_gfPowersFrom (show j < rsParity from hj) 1
  have power := gfPowersFrom_getElem? hv hb
  rw [hv.one, one_mul] at power
  have listed : (syndromes r).getD j 0 = blockEval r b := by
    rw [syndromes, List.getD_eq_getElem?_getD, List.getElem?_map, hb, Option.map_some, Option.getD_some]
  rw [listed, blockEval_eq_sum hv, length, power]
  refine sum_congr rfl fun k _ => ?_
  rw [blockLocator, ← pow_mul, ← pow_mul, mul_comm j]

theorem syndrome_of_codeword {c : List Byte} (h : isCodeword c = true) (j : ℕ) : (syndromes c).getD j 0 = 0 := by
  rw [List.getD_eq_getElem?_getD]
  cases listed : (syndromes c)[j]? with
  | none => rfl
  | some b => simpa using List.all_eq_true.mp h b (List.mem_of_getElem? listed)

section
variable (hv : GfReading v) {r c : List Byte} (hr : r.length = 120) (hc : c.length = 120)
include hv

theorem blockError_ne_zero {k : ℕ} (h : k ∈ errorPositions r c) : blockError v r c k ≠ 0 := by
  have differ := (mem_filter.mp h).2
  exact hv.eq_zero_iff.not.mpr (BitVec.xor_eq_zero_iff.not.mpr differ)

theorem blockLocator_ne_zero (k : ℕ) : blockLocator v k ≠ 0 := pow_ne_zero _ (alpha_ne_zero hv)

include hr in
theorem blockLocator_injOn : Set.InjOn (blockLocator v) (errorPositions r c) := by
  intro i hi j hj same
  have hi := mem_range.mp (errorPositions_subset hr hi)
  have hj := mem_range.mp (errorPositions_subset hr hj)
  have powers := pow_injOn_Iio_orderOf (x := v 2)
  rw [orderOf_alpha hv] at powers
  have exponents : 119 - i = 119 - j := powers (by simp; omega) (by simp; omega) same
  omega

include hr hc in
/-- The syndromes of a block are those of its errors, the codeword having none. -/
theorem toPoly_syndromes (codeword : isCodeword c = true) : toPoly v (syndromes r) =
    syndromePoly 10 (errorPositions r c) (blockLocator v) (blockError v r c) := by
  ext j
  rw [toPoly_coeff hv, syndromePoly_coeff]
  by_cases hj : j < 10
  · have none : ∑ k ∈ range 120, v (c.getD k 0) * blockLocator v k ^ j = 0 := by
      rw [← syndrome_eq_sum hv hc hj, syndrome_of_codeword codeword, hv.zero]
    rw [if_pos hj, syndrome_eq_sum hv hr hj, ← add_zero (∑ k ∈ range 120, _), ← none, ← sum_add_distrib,
      errorPositions, hr, sum_filter]
    refine sum_congr rfl fun k _ => ?_
    rw [← add_mul, ← hv.xor]
    split
    · rfl
    · next same => rw [not_not.mp same, BitVec.xor_self, show v 0#8 = 0 from hv.zero, zero_mul]
  · rw [if_neg hj, List.getD_eq_default _ _ (by rw [syndromes_length]; omega), hv.zero]

end

/-! ## The Chien search (43_reed_solomon.md R344) -/

theorem mem_locatorRoots {conn : List Byte} {p : ℕ × Byte} : p ∈ locatorRoots conn ↔
    ∃ i a, gfPowers[i]? = some a ∧ polyEval conn a = 0 ∧ ((i + 254) % 255, a) = p := by
  simp only [locatorRoots, List.mem_map, List.mem_filter, List.mem_zipIdx_iff_getElem?, beq_iff_eq, Prod.exists,
    and_assoc]
  exact exists_comm

theorem lt_of_gfPowers {i : ℕ} {a : Byte} (h : gfPowers[i]? = some a) : i < 255 := by
  simpa [gfPowers, gfPowersFrom_length] using (List.getElem?_eq_some_iff.mp h).1

theorem locatorRoots_nodup (conn : List Byte) : ((locatorRoots conn).map (·.1)).Nodup := by
  rw [locatorRoots, List.map_map]
  refine ((List.nodup_zipIdx_map_snd gfPowers).of_map.filter _).map_on ?_
  rintro ⟨a, i⟩ hi ⟨b, j⟩ hj same
  have hi := List.mem_zipIdx_iff_getElem?.mp (List.mem_of_mem_filter hi)
  have hj := List.mem_zipIdx_iff_getElem?.mp (List.mem_of_mem_filter hj)
  have lowi := lt_of_gfPowers hi
  have lowj := lt_of_gfPowers hj
  obtain rfl : i = j := by simp only [Function.comp_apply] at same; omega
  rw [show a = b from Option.some.inj (hi.symm.trans hj)]

section
variable (hv : GfReading v) {E : Finset ℕ} (inside : E ⊆ range 120) {conn : List Byte}
  (locator : toPoly v conn = errorLocator E (blockLocator v))
include hv inside locator

/-- A root found is the inverse of the locator of an error, and its position is the error's. -/
theorem position_of_mem_locatorRoots {p : ℕ × Byte} (h : p ∈ locatorRoots conn) :
    ∃ k ∈ E, p.1 = 135 + k ∧ blockLocator v k * v p.2 = 1 := by
  obtain ⟨i, a, hi, root, rfl⟩ := mem_locatorRoots.mp h
  have low := lt_of_gfPowers hi
  have power := gfPowersFrom_getElem? hv hi
  rw [hv.one, one_mul] at power
  rw [← hv.eq_zero_iff, polyEval_eq_eval hv, locator, errorLocator_eval_eq_zero] at root
  obtain ⟨k, hk, inverse⟩ := root
  refine ⟨k, hk, ?_, inverse⟩
  have block := mem_range.mp (inside hk)
  rw [power, blockLocator, ← pow_add, ← orderOf_dvd_iff_pow_eq_one, orderOf_alpha hv] at inverse
  simp only
  omega

/-- The position of every error is found. -/
theorem exists_mem_locatorRoots {k : ℕ} (hk : k ∈ E) : ∃ p ∈ locatorRoots conn, p.1 = 135 + k := by
  have block := mem_range.mp (inside hk)
  obtain ⟨a, ha⟩ := exists_gfPowersFrom (show (136 + k) % 255 < 255 by omega) 1
  have power := gfPowersFrom_getElem? hv ha
  rw [hv.one, one_mul] at power
  refine ⟨_, mem_locatorRoots.mpr ⟨(136 + k) % 255, a, ha, ?_, rfl⟩, by simp only; omega⟩
  rw [← hv.eq_zero_iff, polyEval_eq_eval hv, locator, errorLocator_eval_eq_zero]
  refine ⟨k, hk, ?_⟩
  rw [power, blockLocator, ← pow_add, ← orderOf_dvd_iff_pow_eq_one, orderOf_alpha hv]
  omega

theorem locatorRoots_blocks_nodup : ((locatorRoots conn).map (·.1 - 135)).Nodup := by
  have block {m : ℕ} (h : m ∈ (locatorRoots conn).map (·.1)) : 135 ≤ m := by
    obtain ⟨p, hp, rfl⟩ := List.mem_map.mp h
    obtain ⟨k, -, position, -⟩ := position_of_mem_locatorRoots hv inside locator hp
    omega
  have nodup := (locatorRoots_nodup conn).map_on (f := (· - 135)) fun m hm n hn same => by
    have := block hm
    have := block hn
    omega
  rwa [List.map_map] at nodup

theorem locatorRoots_blocks_toFinset : ((locatorRoots conn).map (·.1 - 135)).toFinset = E := by
  ext k
  rw [List.mem_toFinset, List.mem_map]
  constructor
  · rintro ⟨p, hp, rfl⟩
    obtain ⟨k, hk, position, -⟩ := position_of_mem_locatorRoots hv inside locator hp
    rwa [position, Nat.add_sub_cancel_left]
  · intro hk
    obtain ⟨p, hp, position⟩ := exists_mem_locatorRoots hv inside locator hk
    exact ⟨p, hp, by rw [position, Nat.add_sub_cancel_left]⟩

theorem locatorRoots_length : (locatorRoots conn).length = E.card := by
  rw [← locatorRoots_blocks_toFinset hv inside locator,
    List.toFinset_card_of_nodup (locatorRoots_blocks_nodup hv inside locator), List.length_map]

end

/-! ## The corrections (43_reed_solomon.md R344) -/

/-- Corrections at distinct bytes, each giving the byte of `c`, give `c`. -/
theorem correctErrors_eq {conn omega r c : List Byte} {roots : List (ℕ × Byte)} (length : r.length = c.length)
    (distinct : (roots.map (·.1 - 135)).Nodup)
    (corrected : ∀ p ∈ roots, r.getD (p.1 - 135) 0 ^^^ errorValue conn omega p.2 = c.getD (p.1 - 135) 0)
    (kept : ∀ k < r.length, k ∉ roots.map (·.1 - 135) → r.getD k 0 = c.getD k 0) :
    correctErrors conn omega r roots = c := by
  induction roots generalizing r with
  | nil =>
    show r = c
    refine List.ext_getElem length fun k hk hk' => ?_
    have same := kept k hk (by simp)
    rwa [List.getD_eq_getElem _ _ hk, List.getD_eq_getElem _ _ hk'] at same
  | cons p roots ih =>
    obtain ⟨fresh, distinct⟩ := List.nodup_cons.mp distinct
    have here := corrected p List.mem_cons_self
    refine ih (r := r.set (p.1 - 135) (r.getD (p.1 - 135) 0 ^^^ errorValue conn omega p.2)) (by simpa using length)
      distinct (fun q hq => ?_) fun k inside hk => ?_
    · have other : p.1 - 135 ≠ q.1 - 135 := fun same =>
        fresh (List.mem_map.mpr ⟨q, hq, same.symm⟩)
      rw [List.getD_eq_getElem?_getD, List.getElem?_set_ne other, ← List.getD_eq_getElem?_getD]
      exact corrected q (List.mem_cons_of_mem p hq)
    · rw [List.length_set] at inside
      by_cases same : p.1 - 135 = k
      · subst same
        rw [here, List.getD_eq_getElem?_getD, List.getElem?_set_self inside, Option.getD_some]
      · rw [List.getD_eq_getElem?_getD, List.getElem?_set_ne same, ← List.getD_eq_getElem?_getD]
        exact kept k inside fun hk' => (List.mem_cons.mp hk').elim (fun e => same e.symm) hk

section
variable (hv : GfReading v) {r c : List Byte} {conn omega : List Byte}
  (locator : toPoly v conn = errorLocator (errorPositions r c) (blockLocator v))
  (evaluator : toPoly v omega = errorEvaluator (errorPositions r c) (blockLocator v) (blockError v r c))
include hv locator evaluator

/-- At the inverse of the locator of an error, the value found is the error. -/
theorem errorValue_eq (hr : r.length = 120) {k : ℕ} (hk : k ∈ errorPositions r c) {y : Byte}
    (inverse : blockLocator v k * v y = 1) : errorValue conn omega y = r.getD k 0 ^^^ c.getD k 0 := by
  have := hv.charTwo
  have distinct := blockLocator_injOn hv hr (c := c)
  apply hv.injective
  rw [errorValue, hv.mul, hv.mul, hv.inv, hv.inv, polyEval_eq_eval hv, polyEval_eq_eval hv,
    toPoly_polyDerivative hv, locator, evaluator, forney distinct hk inverse, CharTwo.neg_eq, blockError]

/-- With the locator and the evaluator of the errors the block is corrected. -/
theorem correctErrors_locatorRoots (hr : r.length = 120) (hc : c.length = 120) :
    correctErrors conn omega r (locatorRoots conn) = c := by
  have inside := errorPositions_subset hr (c := c)
  refine correctErrors_eq (hr.trans hc.symm) (locatorRoots_blocks_nodup hv inside locator) (fun p hp => ?_)
    fun k low hk => ?_
  · obtain ⟨k, hk, position, inverse⟩ := position_of_mem_locatorRoots hv inside locator hp
    rw [position, Nat.add_sub_cancel_left, errorValue_eq hv locator evaluator hr hk inverse, ← BitVec.xor_assoc,
      BitVec.xor_self, BitVec.zero_xor]
  · rw [← List.mem_toFinset, locatorRoots_blocks_toFinset hv inside locator, errorPositions, mem_filter,
      mem_range, not_and, not_not] at hk
    exact hk low

end

/-! ## The answers of the decoder (43_reed_solomon.md R343, R344) -/

theorem hammingDistance_self (r : List Byte) : hammingDistance r r = 0 := by
  induction r with
  | nil => rfl
  | cons a r ih => simpa [hammingDistance] using ih

/-- A codeword is answered before the algorithm runs (43_reed_solomon.md R344). -/
theorem rsDecode_codeword {r : List Byte} (h : isCodeword r = true) : rsDecode r = some (r, 0) := if_pos h

/-- The last check of the decoder is R343 itself: what it returns is a codeword at the distance it returns. -/
theorem rsDecode_sound {r c : List Byte} {n : Nat} (h : rsDecode r = some (c, n)) :
    isCodeword c = true ∧ n ≤ 5 ∧ hammingDistance r c = n := by
  simp only [rsDecode] at h
  split at h
  case isTrue codeword =>
    obtain ⟨rfl, rfl⟩ : r = c ∧ 0 = n := by simpa using h
    exact ⟨codeword, by omega, hammingDistance_self r⟩
  case isFalse =>
    split at h
    case isTrue checks =>
      obtain ⟨rfl, rfl⟩ := Prod.mk.inj (Option.some.inj h)
      simp only [Bool.and_eq_true, beq_iff_eq, decide_eq_true_eq] at checks
      obtain ⟨⟨⟨⟨⟨bound, -⟩, -⟩, -⟩, codeword⟩, distance⟩ := checks
      exact ⟨codeword, bound, distance⟩
    case isFalse => exact absurd h (by simp)

/-! ## Up to five errors (43_reed_solomon.md R343, R344) -/

section
variable (hv : GfReading v) {r c : List Byte} (hr : r.length = 120) (hc : c.length = 120)
  (codeword : isCodeword c = true) (few : (errorPositions r c).card ≤ 5)
include hv hr hc codeword few

/-- Up to five errors, the iteration ends with their locator and their number. -/
theorem berlekampMassey_locator :
    toPoly v (berlekampMassey (syndromes r)).conn = errorLocator (errorPositions r c) (blockLocator v) ∧
      (berlekampMassey (syndromes r)).len = (errorPositions r c).card := by
  have distinct := blockLocator_injOn hv hr (c := c)
  have nonzero : ∀ k ∈ errorPositions r c, blockLocator v k ≠ 0 := fun k _ => blockLocator_ne_zero hv k
  have poly := toPoly_syndromes hv hr hc codeword
  have generated (j : ℕ) (low : (errorPositions r c).card ≤ j) (high : j < (syndromes r).length) :
      (toPoly v (syndromes r) * errorLocator (errorPositions r c) (blockLocator v)).coeff j = 0 := by
    rw [poly]
    exact errorLocator_generates low (by rwa [syndromes_length] at high)
  obtain ⟨sound, short⟩ := berlekampMassey_sound hv (errorLocator_natDegree_le _ _) (errorLocator_coeff_zero _ _)
    generated
  have generates := sound.generates
  rw [poly, syndromes_length] at generates
  have locator := eq_errorLocator_of_generates distinct nonzero (fun _ => blockError_ne_zero hv) (by omega) short
    sound.one sound.degree generates
  refine ⟨locator, short.antisymm ?_⟩
  rw [← errorLocator_natDegree nonzero, ← locator]
  exact sound.degree

/-- The polynomial Forney's formula is given is the evaluator. -/
theorem toPoly_omega {conn : List Byte}
    (locator : toPoly v conn = errorLocator (errorPositions r c) (blockLocator v)) :
    toPoly v ((polyMul (syndromes r) conn).take rsParity) =
      errorEvaluator (errorPositions r c) (blockLocator v) (blockError v r c) := by
  ext j
  rw [toPoly_take hv, toPoly_polyMul hv, locator, toPoly_syndromes hv hr hc codeword]
  split
  case isTrue low => exact key_equation_coeff low
  case isFalse high =>
    rw [rsParity] at high
    exact (errorEvaluator_coeff_eq_zero (by omega)).symm

/-- A block with an error, but at most five, is no codeword. -/
theorem not_isCodeword_of_errors (errors : (errorPositions r c).Nonempty) : ¬ isCodeword r = true := by
  intro zero
  have distinct := blockLocator_injOn hv hr (c := c)
  refine syndromePoly_ne_zero distinct (fun k _ => blockLocator_ne_zero hv k) (fun _ => blockError_ne_zero hv)
    (by omega : _ ≤ 10) errors ?_
  rw [← toPoly_syndromes hv hr hc codeword]
  ext j
  rw [toPoly_coeff hv, syndrome_of_codeword zero, hv.zero, coeff_zero]

theorem rsDecode_of_errors (errors : (errorPositions r c).Nonempty) :
    rsDecode r = some (c, hammingDistance r c) := by
  obtain ⟨locator, len⟩ := berlekampMassey_locator hv hr hc codeword few
  rw [← toPoly_polyTrim hv] at locator
  have inside := errorPositions_subset hr (c := c)
  have degree : (polyTrim (berlekampMassey (syndromes r)).conn).length - 1 = (errorPositions r c).card := by
    rw [polyTrim_length hv, ← toPoly_polyTrim hv, locator]
    exact errorLocator_natDegree fun k _ => blockLocator_ne_zero hv k
  have evaluator := toPoly_omega hv hr hc codeword few locator
  have block : (locatorRoots (polyTrim (berlekampMassey (syndromes r)).conn)).all (fun p => 135 ≤ p.1) = true := by
    refine List.all_eq_true.mpr fun p hp => ?_
    obtain ⟨k, -, position, -⟩ := position_of_mem_locatorRoots hv inside locator hp
    simp [position]
  have spoiled : ¬ (syndromes r).all (· == 0) = true := not_isCodeword_of_errors hv hr hc codeword few errors
  simp only [rsDecode, if_neg spoiled, correctErrors_locatorRoots hv locator evaluator hr hc, degree, len,
    locatorRoots_length hv inside locator, block, codeword, hammingDistance_eq_card (hr.trans hc.symm), few]
  simp

end
end

theorem eq_of_errorPositions_eq_empty {r c : List Byte} (length : r.length = c.length)
    (none : errorPositions r c = ∅) : r = c := by
  refine List.ext_getElem length fun k hk hk' => ?_
  have same := filter_eq_empty_iff.mp none (mem_range.mpr hk)
  rwa [not_not, List.getD_eq_getElem _ _ hk, List.getD_eq_getElem _ _ hk'] at same

/-! ## The command past its checks (43_reed_solomon.md R350) -/

theorem exec_rsdec_of_executable {s : State} (hq : s.cmd.queue ≠ []) {src dst : BufOffset}
    (h : Executable (.rsdec src dst)) : exec (.rsdec src dst) s =
    .next ((s.cmdWrite dst.toNat (rsBlock (s.memRead src.toNat 120))).complete
      (if (rsDecode (s.memRead src.toNat 120)).isSome then .ok else .uncorrectable)
      (((rsDecode (s.memRead src.toNat 120)).map fun x => BitVec.ofNat 32 x.2).getD 0xFFFFFFFF)) := by
  have inside : (regionOk src.toNat rsLength 1 && regionOk dst.toNat rsLength 1) = true := by
    simpa [regions, regionOk_iff_inBuf, rsLength] using h.2
  exact congrArg _ (State.runCommand_checked hq h.1 inside _)

end Sys2Proof.Machine

namespace Sys2Proof.Claims

open Sys2Proof.Machine

/-- Settles O15, by the two answers of the decoder. -/
theorem rsdecWritesTheCorrectedBlock : Obligations.RsdecWritesTheCorrectedBlock := by
  intro s e rest src dst hq h
  refine ⟨_, exec_rsdec_of_executable (by simp [hq]) h, ?_⟩
  have length := State.memRead_length s src.toNat 120
  cases answer : rsDecode (s.memRead src.toNat 120) with
  | none =>
    have unchanged : rsBlock (s.memRead src.toNat 120) = s.memRead src.toNat 120 := by simp [rsBlock, answer]
    rw [unchanged]
    exact completedWriting_complete hq .uncorrectable _ dst.toNat length
  | some x =>
    have corrected : rsBlock (s.memRead src.toNat 120) = x.1 := by simp [rsBlock, answer]
    rw [corrected]
    exact completedWriting_complete hq .ok _ dst.toNat ((rsDecode_length answer).trans length)

/-- Settles O58: a codeword is answered first, and every other answer has passed the check of R343. -/
theorem reedSolomonNeverClaimsFalsely : Obligations.ReedSolomonNeverClaimsFalsely :=
  ⟨fun _ h => rsDecode_codeword h, fun _ _ _ h => ⟨rsDecode_length h, rsDecode_sound h⟩⟩

/-- Settles O59: with no error the block is a codeword; with up to five the iteration finds their locator, the
search their positions and Forney's formula their values. -/
theorem reedSolomonCorrectsFiveErrors : Obligations.ReedSolomonCorrectsFiveErrors := by
  intro r c hr hc codeword few
  have length := hr.trans hc.symm
  rcases (errorPositions r c).eq_empty_or_nonempty with none | errors
  · obtain rfl := eq_of_errorPositions_eq_empty length none
    rw [rsDecode_codeword codeword, hammingDistance_self]
  · let _ := gfField
    exact rsDecode_of_errors gfReading_gf hr hc codeword (hammingDistance_eq_card length ▸ few) errors

end Sys2Proof.Claims
end

section
/-! SUPPORT. The time de-interleaver and the step of MSC (44_deinterleave_msc.md R370–R377): the store after the
first fragments of a generation, what it answers to each, and what a step does with the head of MSCQ. -/

namespace Sys2Proof.Machine

open Claims

/-! ## The de-interleaver (44_deinterleave_msc.md R371–R373) -/

theorem deinterleave_filling {m : MscState} (h : m.tiFill < 15) (frag : List SoftBit) (n : Nat) :
    deinterleave m frag n =
      ({ m with ti := m.ti.set m.tiW frag, tiW := (m.tiW + 1) % 16, tiFill := m.tiFill + 1 }, none) := if_pos h

theorem deinterleave_filled {m : MscState} (h : 15 ≤ m.tiFill) (frag : List SoftBit) (n : Nat) :
    deinterleave m frag n =
      ({ m with ti := m.ti.set m.tiW frag, tiW := (m.tiW + 1) % 16 },
        some (deinterleaved (m.ti.set m.tiW frag) m.tiW n)) := if_neg (Nat.not_lt.mpr h)

theorem interleaverPerm_lt (i : Nat) : interleaverPerm.getD (i % 16) 0 < 16 := by
  have entries : ∀ r < 16, interleaverPerm.getD r 0 < 16 := by decide
  exact entries _ (Nat.mod_lt i (Nat.succ_pos 15))

/-- The `n` soft bits that R372 gives for fragment `k` of `frags`, each from a fragment up to 15 before it. -/
def delayed (frags : List (List SoftBit)) (k n : Nat) : List SoftBit :=
  (List.range n).map fun i => (frags.getD (k - 15 + interleaverPerm.getD (i % 16) 0) []).getD i 0

theorem feed_drop (m : MscState) {frags : List (List SoftBit)} (n : Nat) {k : Nat} (hk : k < frags.length) :
    feed n m (frags.drop k) = (deinterleave m (frags.getD k []) n).2 ::
      feed n (deinterleave m (frags.getD k []) n).1 (frags.drop (k + 1)) := by
  rw [List.drop_eq_getElem_cons hk, feed, List.getD_eq_getElem _ _ hk]

/-- The store after the first `k` fragments of a generation: the sixteen vectors are a ring, in which fragment `j`
stays at `j mod 16` until fragment `j + 16` takes its place. -/
structure MscState.Written (m : MscState) (frags : List (List SoftBit)) (k : Nat) : Prop where
  next : m.tiW = k % 16
  fill : m.tiFill = min k 15
  length : m.ti.length = 16
  slot : ∀ j, j < k → k ≤ j + 16 → m.ti.getD (j % 16) [] = frags.getD j []

namespace MscState.Written

theorem start {m : MscState} (hFill : m.tiFill = 0) (hW : m.tiW = 0) (hti : m.ti.length = 16)
    (frags : List (List SoftBit)) : m.Written frags 0 := ⟨hW, hFill, hti, nofun⟩

variable {m : MscState} {frags : List (List SoftBit)} {k : Nat}

/-- With fragment `k` written the ring holds it and the fifteen before it. -/
theorem slot_set (h : m.Written frags k) {j : Nat} (hj : j ≤ k) (hk : k ≤ j + 15) :
    (m.ti.set m.tiW (frags.getD k [])).getD (j % 16) [] = frags.getD j [] := by
  rw [h.next]
  obtain rfl | older := Nat.eq_or_lt_of_le hj
  · have inside : j % 16 < m.ti.length := by
      rw [h.length]
      exact Nat.mod_lt j (Nat.succ_pos 15)
    rw [List.getD_eq_getElem?_getD, List.getElem?_set_self inside, Option.getD_some]
  · have other : k % 16 ≠ j % 16 := by omega
    rw [List.getD_eq_getElem?_getD, List.getElem?_set_ne other, ← List.getD_eq_getElem?_getD]
    exact h.slot j older (by omega)

theorem deinterleave_fst (h : m.Written frags k) (n : Nat) :
    (deinterleave m (frags.getD k []) n).1.Written frags (k + 1) := by
  have next : (m.tiW + 1) % 16 = (k + 1) % 16 := by rw [h.next, Nat.mod_add_mod]
  have length : (m.ti.set m.tiW (frags.getD k [])).length = 16 := List.length_set.trans h.length
  have slot : ∀ j, j < k + 1 → k + 1 ≤ j + 16 →
      (m.ti.set m.tiW (frags.getD k [])).getD (j % 16) [] = frags.getD j [] :=
    fun j hj hk => h.slot_set (by omega) (by omega)
  have fill := h.fill
  obtain filling | filled := Nat.lt_or_ge m.tiFill 15
  · rw [deinterleave_filling filling]
    exact ⟨next, show m.tiFill + 1 = _ by omega, length, slot⟩
  · rw [deinterleave_filled filled]
    exact ⟨next, show m.tiFill = _ by omega, length, slot⟩

/-- Behind the slot just written lies the oldest of the ring, fragment `k − 15`. -/
theorem deinterleaved_eq (h : m.Written frags k) (hk : 15 ≤ k) (n : Nat) :
    deinterleaved (m.ti.set m.tiW (frags.getD k [])) m.tiW n = delayed frags k n := by
  refine List.map_congr_left fun i _ => ?_
  have entry := interleaverPerm_lt i
  have place : (m.tiW + 1 + interleaverPerm.getD (i % 16) 0) % 16 =
      (k - 15 + interleaverPerm.getD (i % 16) 0) % 16 := by
    rw [h.next]
    omega
  rw [place, h.slot_set (by omega) (by omega)]

theorem deinterleave_snd (h : m.Written frags k) (n : Nat) : (deinterleave m (frags.getD k []) n).2 =
    if k < 15 then none else some (delayed frags k n) := by
  have fill := h.fill
  split
  · rw [deinterleave_filling (by omega)]
  · rw [deinterleave_filled (by omega), h.deinterleaved_eq (by omega)]

theorem feed_getElem? (h : m.Written frags k) (n : Nat) {i : Nat} (hi : k + i < frags.length) :
    (feed n m (frags.drop k))[i]? = some (if k + i < 15 then none else some (delayed frags (k + i) n)) := by
  induction i generalizing m k with
  | zero => rw [Nat.add_zero, feed_drop m n (by omega), List.getElem?_cons_zero, h.deinterleave_snd]
  | succ i ih =>
    rw [feed_drop m n (by omega), List.getElem?_cons_succ, ih (h.deinterleave_fst n) (by omega),
      Nat.add_right_comm, Nat.add_assoc]

end MscState.Written

/-! ## The head of MSCQ (44_deinterleave_msc.md R370; 46_control.md R441) -/

theorem State.popMscq_discarded (s : State) (rest : List (BitVec 16 × List SoftBit)) : s.popMscq rest false =
    { s with q := { s.q with mscq := rest }, cmd := { s.cmd with drainM := s.cmd.drainM - 1 } } := by
  simp [State.popMscq]

theorem State.acceptFragment_nil (s : State) (rest : List (BitVec 16 × List SoftBit)) (m : MscState) :
    s.acceptFragment rest m [] = { s with
      msc := m
      live := { s.live with cifIn := s.live.cifIn + 1 }
      q := { s.q with mscq := rest }
      cmd := { s.cmd with drainM := s.cmd.drainM - 1 } } := by
  simp [State.acceptFragment, State.popMscq_discarded, State.count, Counters.add]

theorem State.acceptFragment_singleton (s : State) (rest : List (BitVec 16 × List SoftBit)) (m : MscState)
    (payload : BitVec 16 × List Byte) : s.acceptFragment rest m [payload] = { s with
      msc := m
      live := { s.live with cifIn := s.live.cifIn + 1 }
      q := { s.q with mscq := rest, sfq := s.q.sfq ++ [payload] }
      cmd := { s.cmd with
        drainM := s.cmd.drainM - 1
        drainS := if 0 < s.cmd.drainM then s.cmd.drainS + 1 else s.cmd.drainS } } := by
  simp [State.acceptFragment, State.popMscq, State.count, Counters.add]

theorem State.discardStale_eq_withEvent (s : State) (gen : BitVec 16) : s.discardStale gen =
    withEvent { s with live := { s.live with cifStale := s.live.cifStale + 1 } } 6 false (gen.setWidth 32) :=
  State.raise_eq_withEvent _ .cifStale _

/-! ## The step of MSC (44_deinterleave_msc.md R370) -/

theorem State.mscStep_holds {s : State} (h : s.q.mscq = [] ∨ Config.sfqDepth ≤ s.q.sfq.length) :
    s.mscStep = s := by
  obtain empty | full := h
  · simp [State.mscStep, empty]
  · simp [State.mscStep, State.sfqFull, full]

section
variable {s : State} (may : MayStream s) {gen : BitVec 16} {frag : List SoftBit}
  {rest : List (BitVec 16 × List SoftBit)} (hq : s.q.mscq = (gen, frag) :: rest)
  (room : s.q.sfq.length < Config.sfqDepth)
include may hq room

theorem State.mscStep_stale (h : s.sel.act.valid = false ∨ gen ≠ s.sel.act.generation) :
    s.mscStep = (s.popMscq rest false).discardStale gen := by
  have stale : (!s.sel.act.valid || gen != s.sel.act.generation) = true := by simpa using h
  simp [State.mscStep, State.streaming_iff.mpr may, State.sfqFull, Nat.not_le.mpr room, hq, stale]

theorem State.mscStep_accepts (hv : s.sel.act.valid = true) (hgen : gen = s.sel.act.generation) :
    s.mscStep =
      let d := deinterleave (s.msc.adopt gen) frag (64 * s.sel.act.sizeCu.toNat)
      s.acceptFragment rest d.1 (d.2.toList.map fun y => (gen, payloadOf s.sel.act y)) := by
  simp [State.mscStep, State.streaming_iff.mpr may, State.sfqFull, Nat.not_le.mpr room, hq, hv, hgen]

end

end Sys2Proof.Machine

namespace Sys2Proof.Claims

open Sys2Proof.Machine

/-- Settles O49, by what a step does with the head of MSCQ and what the de-interleaver answers to it. -/
theorem mscStepTakesOneFragment : Obligations.MscStepTakesOneFragment := by
  intro s may
  refine ⟨State.mscStep_holds, ?_⟩
  intro gen frag rest hq room a p
  refine ⟨fun stale => ?_, fun hv hgen => ?_⟩
  · rw [State.mscStep_stale may hq room stale, State.popMscq_discarded]
    exact State.discardStale_eq_withEvent p gen
  · intro m ti c
    have accepts := State.mscStep_accepts may hq room hv hgen
    refine ⟨fun filling => ?_, fun filled => ?_⟩
    · rw [accepts, show s.msc.adopt gen = m from rfl, deinterleave_filling filling]
      exact State.acceptFragment_nil s rest _
    · rw [accepts, show s.msc.adopt gen = m from rfl, deinterleave_filled filled]
      exact State.acceptFragment_singleton s rest _ _

/-- Settles O50, by the ring of sixteen fragments from the empty store on. -/
theorem deinterleaverDelaysByThePermutation : Obligations.DeinterleaverDelaysByThePermutation := by
  intro m frags n k hFill hW hti hk
  have answer := (MscState.Written.start hFill hW hti frags).feed_getElem? n (i := k) (by omega)
  rw [List.drop_zero, Nat.zero_add] at answer
  refine ⟨fun early => ?_, fun late => ⟨delayed frags k n, ?_, ?_, fun i hi => ?_⟩⟩
  · rw [answer, if_pos early]
  · rw [answer, if_neg (Nat.not_lt.mpr late)]
  · simp [delayed]
  · rw [delayed, List.getElem?_map, List.getElem?_range hi]
    rfl

end Sys2Proof.Claims
end

section
/-! SUPPORT. The units of SFA (45_superframe.md R404, R410–R418): the window corrected codeword by codeword, the
header fields, the AU record stream, the audio units, and the super-frame commands past their checks. -/

namespace Sys2Proof.Machine

open Claims

/-! ## The RS window (45_superframe.md R404) -/

theorem interleaved_byteAt (w : List Byte) (cw j : Nat) {k : Nat} (hk : k < 120) :
    byteAt (interleaved w cw j) k = byteAt w (k * cw + j) := by
  simp [interleaved, byteAt, hk]

/-- Byte `k` of codeword `j` goes back to where it was taken from. -/
theorem rsWindow_getElem? (w : List Byte) {cw k j : Nat} (hk : k < 120) (hj : j < cw) :
    (rsWindow w cw).bytes[k * cw + j]? = some (byteAt (rsBlock (interleaved w cw j)) k) := by
  have inside : k * cw + j < 120 * cw := by
    calc k * cw + j < (k + 1) * cw := by rw [Nat.succ_mul]; omega
      _ ≤ 120 * cw := Nat.mul_le_mul_right cw hk
  have column : (k * cw + j) % cw = j := by rw [Nat.mul_add_mod', Nat.mod_eq_of_lt hj]
  have row : (k * cw + j) / cw = k := by
    rw [Nat.mul_comm, Nat.mul_add_div (by omega), Nat.div_eq_of_lt hj, Nat.add_zero]
  have fixed : (((List.range cw).map (codewordOf w cw)).map rsBlock).getD j [] =
      rsBlock (interleaved w cw j) := by
    simp [hj, interleaved, codewordOf, byteAt, rsLength]
  simp only [rsWindow, rsLength, List.getElem?_map, List.getElem?_range inside, Option.map_some, column, row, fixed,
    byteAt]

theorem rsWindow_ncorr (w : List Byte) (cw : Nat) : (rsWindow w cw).ncorr =
    ((List.range cw).map fun j => ((rsDecode (interleaved w cw j)).map (·.2)).getD 0).sum :=
  congrArg List.sum List.map_map

theorem rsWindow_nunc (w : List Byte) (cw : Nat) : (rsWindow w cw).nunc =
    (List.range cw).countP fun j => (rsDecode (interleaved w cw j)).isNone := by
  rw [rsWindow, ← List.countP_eq_length_filter, List.countP_map]
  rfl

/-! ## The header (45_superframe.md R410–R412) -/

/-- `n` bits of a packed stream from bit `p` on, most significant first, read behind the bits `acc` (00_scope.md
R15). -/
def fieldFrom (w : List Byte) (p n acc : Nat) : Nat :=
  (List.range n).foldl (fun acc k => 2 * acc + (streamBit w (p + k)).toNat) acc

theorem auStartField_eq_fieldFrom (w : List Byte) (i : Nat) :
    auStartField w i = fieldFrom w (24 + 12 * (i - 1)) 12 0 := rfl

theorem fieldFrom_succ (w : List Byte) (p n acc : Nat) :
    fieldFrom w p (n + 1) acc = 2 * fieldFrom w p n acc + (streamBit w (p + n)).toNat := by
  simp [fieldFrom, List.range_succ]

theorem fieldFrom_add (w : List Byte) (p n m acc : Nat) :
    fieldFrom w p (n + m) acc = fieldFrom w (p + n) m (fieldFrom w p n acc) := by
  induction m with
  | zero => rfl
  | succ m ih => rw [← Nat.add_assoc, fieldFrom_succ, fieldFrom_succ, ih, Nat.add_assoc]

/-- `n` bits inside byte `b`, behind its first `o`. -/
theorem fieldFrom_inByte (w : List Byte) (b : Nat) {o n : Nat} (h : o + n ≤ 8) (acc : Nat) :
    fieldFrom w (8 * b + o) n acc = acc * 2 ^ n + (byteAt w b).toNat / 2 ^ (8 - (o + n)) % 2 ^ n := by
  induction n with
  | zero => simp [fieldFrom, Nat.mod_one]
  | succ n ih =>
    obtain ⟨d, hd⟩ : ∃ d, d = 8 - (o + (n + 1)) := ⟨_, rfl⟩
    have bit : (streamBit w (8 * b + o + n)).toNat = (byteAt w b).toNat / 2 ^ d % 2 := by
      rw [streamBit, show (8 * b + o + n) / 8 = b by omega, show 7 - (8 * b + o + n) % 8 = d by omega,
        BitVec.getLsbD, Nat.toNat_testBit]
      rfl
    have above : (byteAt w b).toNat / 2 ^ (8 - (o + n)) = (byteAt w b).toNat / 2 ^ d / 2 := by
      rw [Nat.div_div_eq_div_mul, ← Nat.pow_succ, show 8 - (o + n) = d + 1 by omega]
    rw [fieldFrom_succ, ih (by omega), bit, above, ← hd, Nat.pow_succ', Nat.mod_mul]
    ring

/-- Two fields lie in three bytes: an odd one is a byte and the upper half of the next, an even one the lower half
and the byte after it. -/
theorem auStartField_eq_startField (w : List Byte) {i : Nat} (hi : i ≠ 0) : auStartField w i = startField w i := by
  rw [auStartField_eq_fieldFrom, startField]
  generalize hb : 3 + 3 * ((i - 1) / 2) = b
  have low := fun k => (byteAt w k).isLt
  split
  case isTrue odd =>
    rw [show 24 + 12 * (i - 1) = 8 * b + 0 by omega, fieldFrom_add w _ 8 4, fieldFrom_inByte w b (by omega),
      show 8 * b + 0 + 8 = 8 * (b + 1) + 0 by omega, fieldFrom_inByte w (b + 1) (by omega)]
    have first := low b
    have second := low (b + 1)
    omega
  case isFalse even =>
    rw [show 24 + 12 * (i - 1) = 8 * (b + 1) + 4 by omega, fieldFrom_add w _ 4 8,
      fieldFrom_inByte w (b + 1) (by omega), show 8 * (b + 1) + 4 + 4 = 8 * (b + 2) + 0 by omega,
      fieldFrom_inByte w (b + 2) (by omega)]
    have second := low (b + 2)
    omega

theorem headerShape_eq (format : Byte) : headerShape format = (numAus format, headerLength format) := by
  unfold headerShape numAus headerLength dacRate sbrFlag
  cases format.getLsbD 6 <;> cases format.getLsbD 5 <;> rfl

theorem parseHeader_eq_header (w : List Byte) : parseHeader Config.auOffsetsPerSf w = header w := by
  have fields : auStartFields w (numAus (byteAt w 2)) =
      (List.range (numAus (byteAt w 2) - 1)).map fun i => startField w (i + 1) :=
    List.map_congr_left fun i _ => auStartField_eq_startField w i.succ_ne_zero
  simp only [header, headerShape_eq, ← fields]
  rfl

theorem formatRecord_eq_formatWords (f : Format) : formatRecord f = formatWords f := by
  unfold formatRecord formatWords dacRate
  cases f.byte2.getLsbD 4 <;> cases f.byte2.getLsbD 3 <;> rfl

/-! ## The AU record stream (45_superframe.md R412, R418) -/

theorem State.emitRecord_eq_emitted (s : State) (record : List Word) {ready : Event} (h : ready.isError = false)
    (dropInfo : Word) : s.emitRecord record ready dropInfo = emitted s record ready.code dropInfo := by
  have first : record.getD 0 0 = record.headD 0 := by cases record <;> rfl
  simp only [State.emitRecord, State.auqFits, decide_eq_true_eq, State.raise_eq_withEvent, h, first]
  rfl

theorem emitted_room {s : State} {record : List Word}
    (h : 4 * s.q.auq.length + 4 * record.length ≤ Config.auqBytes) (c : Nat) (dropInfo : Word) :
    emitted s record c dropInfo =
      withEvent { s with q := { s.q with auq := s.q.auq ++ record } } c false (record.headD 0) := if_pos h

theorem emitted_full {s : State} {record : List Word}
    (h : Config.auqBytes < 4 * s.q.auq.length + 4 * record.length) (c : Nat) (dropInfo : Word) :
    emitted s record c dropInfo =
      withEvent { s with live := { s.live with auDrop := s.live.auDrop + 1 } } 17 true dropInfo :=
  if_neg (Nat.not_le.mpr h)

/-! ## Audio units (45_superframe.md R414–R416) -/

theorem auRecord_eq (i : Nat) (p : List Byte) :
    auRecord i p = (0xA0#8 ++ BitVec.ofNat 4 i ++ BitVec.ofNat 20 p.length) :: packedWords p := by
  rw [auRecord, wordsOfBytes_eq_packedWords]

theorem auMalformed_iff {h cw start stop : Nat} :
    auMalformed h cw start stop = true ↔ start < h ∨ 110 * cw < stop ∨ stop < start + 3 := by
  simp [auMalformed, or_assoc]

section
variable (s : State) {w : List Byte} {cw h start stop : Nat} (i : Nat)

theorem State.processAu_malformed (bad : start < h ∨ 110 * cw < stop ∨ stop < start + 3) :
    s.processAu w cw h i start stop =
      withEvent { s with live := { s.live with auMalformed := s.live.auMalformed + 1 } } 16 true
        (BitVec.ofNat 32 i) := by
  rw [State.processAu, if_pos (auMalformed_iff.mpr bad), State.raise_eq_withEvent]
  rfl

variable (good : ¬ (start < h ∨ 110 * cw < stop ∨ stop < start + 3))
include good

theorem State.processAu_crcFail (crc : crc16 (auPayload w start stop) ≠ auStoredCrc w stop) :
    s.processAu w cw h i start stop =
      withEvent { s with live := { s.live with auCrcFail := s.live.auCrcFail + 1 } } 15 true
        (BitVec.ofNat 32 i) := by
  rw [State.processAu, if_neg (auMalformed_iff.not.mpr good), if_neg crc, State.raise_eq_withEvent]
  rfl

theorem State.processAu_emitted (crc : crc16 (auPayload w start stop) = auStoredCrc w stop) :
    s.processAu w cw h i start stop =
      emitted { s with live := { s.live with auOk := s.live.auOk + 1 } } (auRecord i (auPayload w start stop)) 14
        (BitVec.ofNat 32 i) := by
  rw [State.processAu, if_neg (auMalformed_iff.not.mpr good), if_pos crc, State.emitRecord_eq_emitted _ _ rfl]
  rfl

end

theorem unitStart_eq (f : Format) (w : List Byte) (cw i : Nat) :
    unitStart Config.auOffsetsPerSf f w cw i = Claims.unitStart f w cw i := by
  obtain rfl | hi := eq_or_ne i 0
  · rfl
  · rw [unitStart, auStartField_eq_startField w hi, Claims.unitStart]

/-- The units in index order, each with its index, start and end. -/
theorem State.extractAus_eq (s : State) (w : List Byte) (cw : Nat) : s.extractAus w cw =
    (List.range s.sfa.fmt.numAus).foldl (fun u i => u.processAu w cw s.sfa.fmt.h i
      (Claims.unitStart s.sfa.fmt w cw i) (Claims.unitStart s.sfa.fmt w cw (i + 1))) s := by
  simp only [State.extractAus, State.processAus, unitStart_eq]

/-! ## The commands past their checks (45_superframe.md R421–R423) -/

section
variable {s : State} (hq : s.cmd.queue ≠ []) {src dst : BufOffset}
include hq

theorem exec_sfchk_of_executable {cw : BitVec 8} (h : Executable (.sfchk src dst cw)) :
    exec (.sfchk src dst cw) s =
      let r := rsWindow (s.memRead src.toNat (120 * cw.toNat)) cw.toNat
      .next ((s.cmdWrite dst.toNat r.bytes).complete
        (if 0 < r.nunc then .uncorrectable else if fireOk r.bytes then .ok else .crcMismatch)
        ((BitVec.ofNat 32 r.nunc <<< 16) ||| BitVec.ofNat 32 r.ncorr)) := by
  have inside : (regionOk src.toNat (rsLength * cw.toNat) 1 &&
      regionOk dst.toNat (rsLength * cw.toNat) 1) = true := by
    simpa [regions, regionOk_iff_inBuf, rsLength] using h.2
  exact congrArg _ (State.runCommand_checked hq h.1 inside _)

theorem exec_firecrc_of_executable (h : Executable (.firecrc src)) : exec (.firecrc src) s =
    .next (s.complete .ok ((fireCode (s.memRead src.toNat 9)).zeroExtend 32)) := by
  have inside : regionOk src.toNat 9 1 = true := by
    simpa [regions, regionOk_iff_inBuf] using h.2
  exact congrArg _ (State.runCommand_checked hq rfl inside _)

theorem exec_crc16_of_executable {n : BitVec 19} (h : Executable (.crc16 src n)) : exec (.crc16 src n) s =
    .next (s.complete .ok ((crc16 (s.memRead src.toNat n.toNat)).zeroExtend 32)) := by
  have inside : regionOk src.toNat n.toNat 1 = true := by
    simpa [regions, regionOk_iff_inBuf] using h.2
  exact congrArg _ (State.runCommand_checked hq h.1 inside _)

end

end Sys2Proof.Machine

namespace Sys2Proof.Claims

open Sys2Proof.Machine

/-- Settles O17, for both commands by the completion past their checks. -/
theorem crcCommandsReturnTheirCrcs : Obligations.CrcCommandsReturnTheirCrcs := by
  intro s e rest src n hq
  have head : s.cmd.queue ≠ [] := by simp [hq]
  exact ⟨fun h => ⟨_, exec_firecrc_of_executable head h, completedOnly_complete hq .ok _⟩,
    fun h => ⟨_, exec_crc16_of_executable head h, completedOnly_complete hq .ok _⟩⟩

/-- Settles O16: the window by the two answers of the decoder to each codeword, the command past its checks. -/
theorem sfchkChecksTheWindow : Obligations.SfchkChecksTheWindow := by
  refine ⟨fun w cw => ⟨rsWindow_bytes_length w cw, fun k j hk hj => ?_, ?_, rsWindow_nunc w cw⟩, ?_⟩
  · rw [rsWindow_getElem? w hk hj]
    cases answer : rsDecode (interleaved w cw j) with
    | none =>
      have unchanged : rsBlock (interleaved w cw j) = interleaved w cw j := by simp [rsBlock, answer]
      rw [unchanged, interleaved_byteAt w cw j hk]
    | some x =>
      have corrected : rsBlock (interleaved w cw j) = x.1 := by simp [rsBlock, answer]
      rw [corrected]
  · rw [rsWindow_ncorr]
    refine congrArg List.sum (List.map_congr_left fun j _ => ?_)
    cases rsDecode (interleaved w cw j) <;> rfl
  · intro s e rest src dst cw hq h
    refine ⟨_, exec_sfchk_of_executable (by simp [hq]) h, ?_⟩
    simp only [fireOk, beq_iff_eq]
    exact completedWriting_complete hq _ _ dst.toNat (rsWindow_bytes_length _ _)

/-- Settles O52, by the branches of an audio unit. -/
theorem audioUnitsAreEmittedOrDropped : Obligations.AudioUnitsAreEmittedOrDropped := by
  intro s w cw h i start stop t malformed P stored index
  refine ⟨s.processAu_malformed i, s.processAu_crcFail i, ?_⟩
  intro good crc record u
  have unit : t = emitted u record 14 index :=
    (s.processAu_emitted i good crc).trans (congrArg (emitted u · 14 index) (auRecord_eq i P))
  exact ⟨fun room => unit.trans (emitted_room (s := u) room 14 index),
    fun full => unit.trans (emitted_full (s := u) full 14 index)⟩

end Sys2Proof.Claims
end

section
/-! SUPPORT. The step of SFA (45_superframe.md R401–R406): how a window is counted, passes or fails, and what a step
does with the head of SFQ. -/

namespace Sys2Proof.Machine

open Claims

/-! ## The window counted, passed or rejected (45_superframe.md R404–R406) -/

theorem State.raiseIf_eq_withEvent (s : State) (b : Bool) (c : Event) (info : Word) :
    s.raiseIf b c info = if b then withEvent s c.code c.isError info else s := by
  rw [State.raiseIf, State.raise_eq_withEvent]

theorem State.countRsWindow_eq_windowCounted (s : State) (r : RsWindow) :
    s.countRsWindow r = windowCounted s r.ncorr r.nunc := by
  simp only [State.countRsWindow, State.raiseIf_eq_withEvent, decide_eq_true_eq]
  rfl

@[simp] theorem windowCounted_sfa (s : State) (ncorr nunc : Nat) : (windowCounted s ncorr nunc).sfa = s.sfa := by
  unfold windowCounted
  dsimp only
  split <;> split <;> rfl

theorem State.enterSynced_eq (s : State) : s.enterSynced =
    let synced : State := { s with sfa := { s.sfa with phase := .synced, store := [] } }
    if s.sfa.phase = .accumulating then withEvent synced 12 false 0 else synced := by
  simp only [State.enterSynced, State.raiseIf_eq_withEvent, beq_iff_eq]
  rfl

theorem State.cacheFormat_eq (s : State) (w : List Byte) : s.cacheFormat w =
    if s.sfa.fmtValid then s else
      emitted { s with sfa := { s.sfa with fmt := header w, fmtValid := true } } (formatWords (header w)) 18
        0xFFFFFFFF := by
  rw [State.cacheFormat, State.emitFormat, State.emitRecord_eq_emitted _ _ rfl, parseHeader_eq_header,
    formatRecord_eq_formatWords]
  rfl

/-- The header cache is not touched by becoming synchronized (45_superframe.md R405). -/
theorem State.enterSynced_fmtValid (s : State) : s.enterSynced.sfa.fmtValid = s.sfa.fmtValid := by
  rw [State.enterSynced_eq]
  dsimp only
  split <;> rfl

theorem State.passWindow_eq_passed (s : State) (w : List Byte) (cw : Nat) :
    s.passWindow w cw 0 = passed s w cw := by
  have cache : (s.enterSynced.count .sfOk 1).sfa.fmtValid = s.sfa.fmtValid := s.enterSynced_fmtValid
  rw [State.passWindow, if_neg (Nat.lt_irrefl 0), State.extractAus_eq, State.cacheFormat_eq, cache,
    State.enterSynced_eq]
  rfl

/-- A synchronized assembler stays so without an event; only the store is emptied (45_superframe.md R405). -/
theorem State.passWindow_uncorrectable {s : State} (synced : s.sfa.phase = .synced) (w : List Byte) (cw : Nat)
    {nunc : Nat} (h : 0 < nunc) : s.passWindow w cw nunc = { s with sfa := { s.sfa with store := [] } } := by
  simp [State.passWindow, h, State.enterSynced_eq, synced]

theorem State.failWindow_eq_failed (s : State) (fire : Bool) : s.failWindow fire = failed s fire := by
  simp only [State.failWindow, State.countFireFail, State.raiseIf_eq_withEvent, State.raise_eq_withEvent, beq_iff_eq]
  rfl

section
variable {s : State} {cw : Nat} {r : RsWindow} (hr : rsWindow s.sfa.store.flatten cw = r)
include hr

theorem State.attemptWindow_rejects
    (h : fireOk r.bytes = false ∨ 0 < r.nunc ∧ s.sfa.phase = .accumulating) :
    s.attemptWindow cw = failed (windowCounted s r.ncorr r.nunc) (fireOk r.bytes) := by
  have refused : (fireOk r.bytes && (r.nunc == 0 || s.sfa.phase == .synced)) = false := by
    obtain mismatch | ⟨uncorrectable, accumulating⟩ := h
    · rw [mismatch, Bool.false_and]
    · simp [accumulating, Nat.pos_iff_ne_zero.mp uncorrectable]
  subst hr
  rw [State.attemptWindow, refused, State.countRsWindow_eq_windowCounted]
  exact State.failWindow_eq_failed _ _

theorem State.attemptWindow_emitsNothing (fire : fireOk r.bytes = true) (h : 0 < r.nunc)
    (synced : s.sfa.phase = .synced) :
    s.attemptWindow cw =
      { windowCounted s r.ncorr r.nunc with sfa := { s.sfa with store := [] } } := by
  subst hr
  rw [State.attemptWindow, fire, synced, beq_self_eq_true, Bool.or_true, State.countRsWindow_eq_windowCounted]
  have still (ncorr nunc : Nat) : (windowCounted s ncorr nunc).sfa.phase = .synced := by
    rw [windowCounted_sfa, synced]
  exact (State.passWindow_uncorrectable (still _ _) _ _ h).trans (by rw [windowCounted_sfa])

theorem State.attemptWindow_passes (fire : fireOk r.bytes = true) (h : r.nunc = 0) :
    s.attemptWindow cw = passed (windowCounted s r.ncorr r.nunc) r.bytes cw := by
  subst hr
  rw [State.attemptWindow, fire, h, State.countRsWindow_eq_windowCounted, h]
  exact State.passWindow_eq_passed _ _ _

end

/-! ## The head of SFQ (45_superframe.md R401, R402; 46_control.md R441) -/

/-- What SFA holds once it has adopted the generation of an entry (45_superframe.md R401). -/
def SfaState.adopt (k : SfaState) (gen : BitVec 16) : SfaState :=
  if gen = k.sfaGen then k else { k with phase := .accumulating, store := [], fmtValid := false, sfaGen := gen }

theorem State.adoptSfaGen_eq (s : State) (gen : BitVec 16) :
    s.adoptSfaGen gen = { s with sfa := s.sfa.adopt gen } := by
  unfold State.adoptSfaGen SfaState.adopt
  split <;> rfl

theorem State.assemble_stores {s : State} (h : s.sfa.store.length ≠ 4) (bytes : List Byte) (cw : Nat) :
    s.assemble bytes cw = s.storePayload bytes :=
  if_neg fun fifth => h (Nat.succ.inj fifth)

theorem State.assemble_attempts {s : State} (h : s.sfa.store.length = 4) (bytes : List Byte) (cw : Nat) :
    s.assemble bytes cw = (s.storePayload bytes).attemptWindow cw :=
  if_pos (congrArg Nat.succ h)

theorem State.sfaStep_empty {s : State} (h : s.q.sfq = []) : s.sfaStep = s := by
  simp [State.sfaStep, h]

section
variable {s : State} (may : MayStream s) {gen : BitVec 16} {bytes : List Byte}
  {rest : List (BitVec 16 × List Byte)} (hq : s.q.sfq = (gen, bytes) :: rest)
include may hq

theorem State.sfaStep_stale (h : s.sel.act.valid = false ∨ gen ≠ s.sel.act.generation) :
    s.sfaStep = (s.popSfq rest).discardStale gen := by
  have stale : (!s.sel.act.valid || gen != s.sel.act.generation) = true := by simpa using h
  simp [State.sfaStep, State.streaming_iff.mpr may, hq, stale]

theorem State.sfaStep_assembles (hv : s.sel.act.valid = true) (hgen : gen = s.sel.act.generation) :
    s.sfaStep = { s.popSfq rest with sfa := s.sfa.adopt gen }.assemble bytes (s.sel.act.bitrate.toNat / 8) := by
  have adopted : (s.popSfq rest).adoptSfaGen gen = { s.popSfq rest with sfa := s.sfa.adopt gen } :=
    State.adoptSfaGen_eq _ gen
  rw [← adopted]
  simp [State.sfaStep, State.streaming_iff.mpr may, hq, hv, hgen]

end

end Sys2Proof.Machine

namespace Sys2Proof.Claims

open Sys2Proof.Machine

/-- Settles O51, by what a step does with the head of SFQ and the three outcomes of a window. -/
theorem sfaStepTakesOnePayload : Obligations.SfaStepTakesOnePayload := by
  intro s may
  refine ⟨State.sfaStep_empty, ?_⟩
  intro gen bytes rest hq a p
  refine ⟨fun stale => ?_, ?_⟩
  · rw [State.sfaStep_stale may hq stale]
    exact State.discardStale_eq_withEvent p gen
  · intro hv hgen f stored
    have assembles := State.sfaStep_assembles may hq hv hgen
    refine ⟨fun filling => assembles.trans (State.assemble_stores filling bytes _), fun four => ?_⟩
    intro cw r t fire
    have attempts : s.sfaStep = stored.attemptWindow cw :=
      assembles.trans (State.assemble_attempts four bytes _)
    have window : rsWindow stored.sfa.store.flatten cw = r := rfl
    refine ⟨fun rejected => ?_, fun fires uncorrectable synced => ?_, fun fires corrected => ?_⟩
    · exact attempts.trans (State.attemptWindow_rejects window rejected)
    · exact attempts.trans (State.attemptWindow_emitsNothing window fires uncorrectable synced)
    · exact attempts.trans (State.attemptWindow_passes window fires corrected)

end Sys2Proof.Claims
end

section
/-! SUPPORT. Run control (46_control.md R450, R452, R454, R456): what one step does to the stop flag, to FINISHED and
to the active selection, the end of a turn, and the agents that are not enabled. -/

namespace Sys2Proof.Machine

open Claims

/-! ## The end of a turn (46_control.md R452) -/

theorem State.settle_finishing {s : State} (h : (s.drained && !s.ctl.finished) = true) : s.settle =
    { s with ctl := { s.ctl with finished := true }, q := { s.q with iqf := [] } }.raise .halted 2 := if_pos h

theorem State.settle_continuing {s : State} (h : (s.drained && !s.ctl.finished) = false) : s.settle = s :=
  if_neg (Bool.eq_false_iff.mp h)

/-- The condition checked at the end of a turn is that of R452. -/
theorem State.finishing_iff {s : State} : (s.drained && !s.ctl.finished) = true ↔ Finishes s := by
  simp only [State.drained, Bool.and_eq_true, Bool.not_eq_true', decide_eq_true_eq, List.isEmpty_iff]
  tauto

theorem State.settle_finishes {s : State} (h : Finishes s) : s.settle = withEvent
    { s with ctl := { s.ctl with finished := true }, q := { s.q with iqf := [] } } 23 false 2 :=
  State.settle_finishing (State.finishing_iff.mpr h)

theorem State.settle_continues {s : State} (h : ¬ Finishes s) : s.settle = s :=
  State.settle_continuing (Bool.eq_false_iff.mpr (State.finishing_iff.not.mpr h))

theorem State.settle_stopReq (s : State) : s.settle.ctl.stopReq = s.ctl.stopReq := by
  obtain e | ⟨-, -, e⟩ := s.settle_cases <;> rw [e]
  rfl

/-! ## A write to `CTRL` (10_state.md R37; 46_control.md R450) -/

theorem State.stop_stopReq (s : State) : s.stop.ctl.stopReq = true := by
  unfold State.stop
  split
  · assumption
  · rfl

theorem State.stop_finished (s : State) : s.stop.ctl.finished = s.ctl.finished := by
  unfold State.stop
  split <;> rfl

/-- A write to `CTRL` sets the stop flag with its STOP bit, and clears it only with its SOFT_RESET bit. -/
theorem State.writeCtrl_stopReq (s : State) (v : Word) :
    (s.writeCtrl v).ctl.stopReq = (v.getLsbD 1 || (!v.getLsbD 3 && s.ctl.stopReq)) := by
  have reset : (if v.getLsbD 3 then s.softReset else s).ctl.stopReq = (!v.getLsbD 3 && s.ctl.stopReq) := by
    cases v.getLsbD 3 <;> rfl
  have stop (u : State) : (if v.getLsbD 1 then u.stop else u).ctl.stopReq = (v.getLsbD 1 || u.ctl.stopReq) := by
    cases v.getLsbD 1
    · rfl
    · exact u.stop_stopReq
  have finish (u : State) : (if v.getLsbD 2 then u.finish else u).ctl.stopReq = u.ctl.stopReq := by
    split <;> rfl
  rw [State.writeCtrl, finish, stop]
  exact congrArg _ reset

/-- A write to `CTRL` clears FINISHED with its SOFT_RESET bit and never sets it. -/
theorem State.writeCtrl_finished (s : State) (v : Word) :
    (s.writeCtrl v).ctl.finished = (!v.getLsbD 3 && s.ctl.finished) := by
  have reset : (if v.getLsbD 3 then s.softReset else s).ctl.finished = (!v.getLsbD 3 && s.ctl.finished) := by
    cases v.getLsbD 3 <;> rfl
  have stop (u : State) : (if v.getLsbD 1 then u.stop else u).ctl.finished = u.ctl.finished := by
    split
    · exact u.stop_finished
    · rfl
  have finish (u : State) : (if v.getLsbD 2 then u.finish else u).ctl.finished = u.ctl.finished := by
    split <;> rfl
  rw [State.writeCtrl, finish, stop]
  exact reset

theorem State.writeCtrl_sel {v : Word} (h : v.getLsbD 3 = false) (s : State) : (s.writeCtrl v).sel = s.sel := by
  obtain ⟨ctl, ev, e⟩ := s.writeCtrl_cases v
  rw [e, h]
  rfl

/-! ## What a turn does to run control and the active selection -/

/-- From `s` to `t` run control and the active selection stay. -/
structure ControlKept (s t : State) : Prop where
  ctl : t.ctl = s.ctl
  act : t.sel.act = s.sel.act

theorem CommandEffect.controlKept {s t : State} (h : CommandEffect s t) : ControlKept s t := by
  constructor <;> cases h <;> simp

theorem PipelineOnly.controlKept {s t : State} (h : PipelineOnly s t) : ControlKept s t :=
  ⟨h.ctl, congrArg _ h.sel⟩

/-- A write to a register other than `CTRL` and `SUBCH_COMMIT` keeps both. -/
theorem State.csrWrite_controlKept (s : State) (v : Word) {r : Csr} (hctrl : r ≠ .ctrl)
    (hcommit : r ≠ .subchCommit) : ControlKept s (s.csrWrite v r) := by
  refine ⟨by rw [s.csrWrite_frame v hctrl], ?_⟩
  cases r with
  | ctrl => exact absurd rfl hctrl
  | subchCommit => exact absurd rfl hcommit
  | iqPush32 | iqPush8 => rw [State.csrWrite, s.pushIq_frame]
  | cmdGo => rw [State.csrWrite, s.cmdGo_frame]
  | _ => rfl

theorem State.hostRead_controlKept (s after : State) (a : HostAddr) (w : Width) :
    ControlKept s (s.hostRead after a w) := by
  obtain ⟨r, v, e⟩ | e := s.hostRead_cases after a w
  · rw [e, s.csrReadEffect_frame]
    exact ⟨rfl, rfl⟩
  · rw [e]
    exact ⟨rfl, rfl⟩

theorem State.hostWrite_control_cases (s : State) (a : HostAddr) (w : Width) (v : Word) :
    ControlKept s (s.hostWrite a w v) ∨
    (a = 0x004 ∧ w = .w32 ∧ s.hostWrite a w v = s.writeCtrl v) ∨
    (a = 0x048 ∧ w = .w32 ∧ s.hostWrite a w v = s.commit v) := by
  obtain ⟨r, ha, hw, e⟩ | ⟨o, -, e⟩ | e | e := s.hostWrite_cases a w v <;> rw [e]
  · by_cases hctrl : r = .ctrl
    · subst hctrl
      exact .inr (.inl ⟨BitVec.eq_of_toNat_eq ha, hw, rfl⟩)
    · by_cases hcommit : r = .subchCommit
      · subst hcommit
        exact .inr (.inr ⟨BitVec.eq_of_toNat_eq ha, hw, rfl⟩)
      · exact .inl (s.csrWrite_controlKept v hctrl hcommit)
  · exact .inl ⟨rfl, rfl⟩
  · exact .inl ⟨rfl, rfl⟩
  · exact .inl ⟨rfl, rfl⟩

/-- Only the reset input and writes to `CTRL` and `SUBCH_COMMIT` touch run control or the active selection. -/
theorem runTurn_control_cases {s t : State} {u : Turn} (h : runTurn u s = .next t) :
    ControlKept s t ∨ (u = .hardwareReset ∧ t = s.hardwareReset) ∨
    (∃ v, u = .host (.write 0x004 .w32 v) ∧ t = s.writeCtrl v) ∨
    (∃ v, u = .host (.write 0x048 .w32 v) ∧ t = s.commit v) := by
  cases u with
  | acq => exact .inl (Host.Outcome.next.inj h ▸ (PipelineOnly.acqStep s).controlKept)
  | sync => exact .inl (Host.Outcome.next.inj h ▸ (PipelineOnly.syncStep s).controlKept)
  | nosample => exact .inl (Host.Outcome.next.inj h ▸ (PipelineOnly.nosampleStep s).controlKept)
  | demod => exact .inl (Host.Outcome.next.inj h ▸ (PipelineOnly.demodStep s).controlKept)
  | msc => exact .inl (Host.Outcome.next.inj h ▸ (PipelineOnly.mscStep s).controlKept)
  | sfa => exact .inl (Host.Outcome.next.inj h ▸ (PipelineOnly.sfaStep s).controlKept)
  | cmd =>
    obtain ⟨t', e, effect⟩ := cmdStep_effect s
    obtain rfl : t' = t := Host.Outcome.next.inj (e.symm.trans h)
    exact .inl effect.controlKept
  | hardwareReset => exact .inr (.inl ⟨rfl, (Host.Outcome.next.inj h).symm⟩)
  | host x =>
    obtain rfl := Host.Outcome.next.inj h
    cases x with
    | read a w => exact .inl (s.hostRead_controlKept s.afterCmd a w)
    | write a w v =>
      obtain kept | ⟨rfl, rfl, e⟩ | ⟨rfl, rfl, e⟩ := s.hostWrite_control_cases a w v
      · exact .inl kept
      · exact .inr (.inr (.inl ⟨v, rfl, e⟩))
      · exact .inr (.inr (.inr ⟨v, rfl, e⟩))

section
variable {s u : State} (h : runTurn s.nextTurn s.beginTurn = .next u)
include h

/-- A turn changes FINISHED only where it resets the block, which clears it. -/
theorem runTurn_finished_cases :
    u.ctl.finished = s.ctl.finished ∨ (Resets s ∧ u.ctl.finished = false) := by
  obtain kept | ⟨turn, rfl⟩ | ⟨v, turn, rfl⟩ | ⟨v, -, rfl⟩ := runTurn_control_cases h
  · exact .inl (congrArg Ctl.finished kept.ctl)
  · exact .inr ⟨.inl turn, rfl⟩
  · rw [State.writeCtrl_finished]
    cases hv : v.getLsbD 3
    · exact .inl rfl
    · exact .inr ⟨.inr ⟨v, turn, hv⟩, rfl⟩
  · rw [State.commit_frame]
    exact .inl rfl

/-- A turn changes the stop flag only where it writes `CTRL.STOP` or resets the block. -/
theorem runTurn_stopReq_cases :
    u.ctl.stopReq = s.ctl.stopReq ∨ (u.ctl.stopReq = false ∧ Resets s) ∨
    (u.ctl.stopReq = true ∧ ∃ v : Word, HostWrites s 0x004 v ∧ v.getLsbD 1 = true) := by
  obtain kept | ⟨turn, rfl⟩ | ⟨v, turn, rfl⟩ | ⟨v, -, rfl⟩ := runTurn_control_cases h
  · exact .inl (congrArg Ctl.stopReq kept.ctl)
  · exact .inr (.inl ⟨rfl, .inl turn⟩)
  · rw [State.writeCtrl_stopReq]
    cases stops : v.getLsbD 1
    · cases resets : v.getLsbD 3
      · exact .inl rfl
      · exact .inr (.inl ⟨rfl, .inr ⟨v, turn, resets⟩⟩)
    · exact .inr (.inr ⟨rfl, v, turn, stops⟩)
  · rw [State.commit_frame]
    exact .inl rfl

/-- A turn changes the active selection only where it commits valid staged fields or resets the block. -/
theorem runTurn_act_cases :
    u.sel.act = s.sel.act ∨ Resets s ∨ ∃ v : Word, HostWrites s 0x048 v ∧ v.getLsbD 0 = true ∧
      (∀ n, ¬ FailsCheck (staged s) n) ∧ u.sel.act = staged s := by
  obtain kept | ⟨turn, rfl⟩ | ⟨v, turn, rfl⟩ | ⟨v, turn, rfl⟩ := runTurn_control_cases h
  · exact .inl kept.act
  · exact .inr (.inl (.inl turn))
  · cases resets : v.getLsbD 3
    · exact .inl (congrArg SelectionRegs.act (State.writeCtrl_sel resets _))
    · exact .inr (.inl (.inr ⟨v, turn, resets⟩))
  · obtain ⟨-, e⟩ | ⟨hv, sound, e⟩ | ⟨-, n, -, e⟩ := s.beginTurn.commit_cases v <;> rw [e]
    · exact .inl rfl
    · exact .inr (.inr ⟨v, turn, hv, Selection.sound_iff.mp sound, rfl⟩)
    · exact .inl rfl

end

/-! ## Agents that are not enabled (46_control.md R454) -/

section
variable {s : State} (h : ¬ MayStream s)
include h

theorem State.streaming_false : s.streaming = false := Bool.eq_false_iff.mpr (State.streaming_iff.not.mpr h)

theorem State.syncStep_halted : s.syncStep = s := by
  rw [State.syncStep, State.streaming_false h]
  rfl

theorem State.nosampleStep_halted : s.nosampleStep = s :=
  State.nosampleStep_disabled fun enabled => h (State.nosampleEnabled_iff.mp enabled).1

theorem State.demodStep_halted : s.demodStep = s := by
  rw [State.demodStep, State.streaming_false h]
  rfl

theorem State.mscStep_halted : s.mscStep = s := by
  rw [State.mscStep, State.streaming_false h]
  rfl

theorem State.sfaStep_halted : s.sfaStep = s := by
  rw [State.sfaStep, State.streaming_false h]
  rfl

end

end Sys2Proof.Machine

namespace Sys2Proof.Claims

open Sys2Proof.Machine

/-- Settles O35, by what a turn does to the stop flag and to the active selection; its end touches neither. -/
theorem stopAndSelectionChangeOnlyByTheirWrites : Obligations.StopAndSelectionChangeOnlyByTheirWrites := by
  intro s t h
  obtain ⟨u, hu, rfl⟩ := runTurn_of_step h
  rw [State.settle_stopReq, State.settle_sel]
  refine ⟨fun stopped => ?_, fun running stops => ?_, runTurn_act_cases hu⟩
  · obtain kept | ⟨-, resets⟩ | ⟨stops, -⟩ := runTurn_stopReq_cases hu
    · exact .inl (kept.trans stopped)
    · exact .inr resets
    · exact .inl stops
  · obtain kept | ⟨cleared, -⟩ | ⟨-, write⟩ := runTurn_stopReq_cases hu
    · exact absurd (running.symm.trans (kept.symm.trans stops)) nofun
    · exact absurd (cleared.symm.trans stops) nofun
    · exact write

/-- Settles O37: FINISHED is set only by the end of a turn, where the condition holds, and cleared only by a reset
in the turn. -/
theorem finishedFollowsItsCondition : Obligations.FinishedFollowsItsCondition := by
  intro s t h
  obtain ⟨u, hu, rfl⟩ := runTurn_of_step h
  have turn := runTurn_finished_cases hu
  by_cases finishes : Finishes u
  · rw [State.settle_finishes finishes]
    have recorded : (u.ev.irqStatus ||| BitVec.ofNat 25 (2 ^ 23)).getLsbD 23 = true := by simp
    exact ⟨fun _ _ _ _ _ _ _ => rfl, fun _ => .inl rfl, fun _ _ => ⟨recorded, rfl⟩,
      u, hu, fun _ => rfl, absurd finishes⟩
  · rw [State.settle_continues finishes]
    refine ⟨fun requested running few samples symbols fragments payloads => ?_, fun finished => ?_,
      fun unfinished finished => ?_, u, hu, (absurd · finishes), fun _ => rfl⟩
    · exact by_contra fun unfinished => finishes
        ⟨requested, running, Bool.eq_false_iff.mpr unfinished, few, samples, symbols, fragments, payloads⟩
    · exact turn.imp (·.trans finished) And.left
    · obtain kept | ⟨-, cleared⟩ := turn
      · exact absurd (unfinished.symm.trans (kept.symm.trans finished)) nofun
      · exact absurd (cleared.symm.trans finished) nofun

/-- Settles O6: a CMD turn is the step of CMD, which runs what the head of CMDQ decodes to. -/
theorem stepRunsTheDecodedCommand : Obligations.StepRunsTheDecodedCommand := by
  intro s ts e rest i hts hq hd
  obtain ⟨t, ht, -⟩ := exec_effect i { s with turns := ts, tick := s.tick + 1 }
  have begun : s.beginTurn = { s with turns := ts, tick := s.tick + 1 } := by
    rw [State.beginTurn, hts, List.drop_one, List.tail_cons]
  have turn : runTurn s.nextTurn s.beginTurn = .next t := by
    rw [nextTurn_cons hts, begun, ← ht]
    exact cmdStep_instr hq hd
  refine ⟨t, ht, fun continuing => ?_, fun finishing => ?_⟩
  · rw [step_of_runTurn turn, State.settle_continuing continuing]
  · rw [step_of_runTurn turn, State.settle_finishing finishing]

/-- Settles O36, agent by agent. -/
theorem disabledAgentsChangeNothing : Obligations.DisabledAgentsChangeNothing :=
  fun _ h => ⟨State.acqStep_disabled (.inl h), State.syncStep_halted h, State.nosampleStep_halted h,
    State.demodStep_halted h, State.mscStep_halted h, State.sfaStep_halted h⟩

end Sys2Proof.Claims
end

section
/-! SUPPORT. The commands that do not compute on data (46_control.md R440–R443): their completions, and what a turn
does to the entries a DRAIN at the head of CMDQ waits for (R441). -/

namespace Sys2Proof.Machine

open Claims

/-! ## Completions (46_control.md R440–R443) -/

section
variable {s : State} (hq : s.cmd.queue ≠ [])
include hq

theorem exec_nop : exec .nop s = .next (s.complete .ok 0) := congrArg _ (State.runCommand_run hq _)

theorem exec_drain_done (done : s.cmd.drainM = 0 ∧ s.cmd.drainS = 0) :
    exec .drain s = .next (s.complete .ok 0) :=
  congrArg _ ((State.runCommand_run hq _).trans (if_pos done))

theorem exec_drain_aborted (left : s.cmd.drainM ≠ 0 ∨ s.cmd.drainS ≠ 0) (stopped : s.ctl.stopReq = true) :
    exec .drain s = .next (s.complete .aborted 0) :=
  congrArg _ ((State.runCommand_run hq _).trans ((if_neg (not_and_or.mpr left)).trans (if_pos stopped)))

variable {src : BufOffset} {a : Selection} (running : s.ctl.stopReq = false)
include running

/-- Past its checks, with room in its queue and no stop, an injecting command pushes and completes. -/
theorem State.injectCommand_pushes {len : Selection → Nat} (checked : InjectsWith s src len a) {full : Bool}
    (room : full = false) (pushed : Selection → State) :
    s.injectCommand src len full pushed = (pushed a).complete .ok (BitVec.ofNat 32 (len a)) := by
  rw [State.injectCommand_checked hq checked, State.inject, running, room]
  rfl

theorem exec_injmsc_pushes (checked : InjectsWith s src softLength a)
    (room : s.q.mscq.length < Config.mscqDepth) : exec (.injmsc src) s = .next (State.complete
      { s with q := { s.q with mscq := s.q.mscq ++ [(a.generation, s.memRead src.toNat (softLength a))] } }
      .ok (BitVec.ofNat 32 (softLength a))) :=
  congrArg _ ((State.runCommand_run hq _).trans (State.injectCommand_pushes hq running checked (by simpa using room) _))

theorem exec_injsf_pushes (checked : InjectsWith s src byteLength a)
    (room : s.q.sfq.length < Config.sfqDepth) : exec (.injsf src) s = .next (State.complete
      { s with q := { s.q with sfq := s.q.sfq ++ [(a.generation, s.memRead src.toNat (byteLength a))] } }
      .ok (BitVec.ofNat 32 (byteLength a))) :=
  congrArg _ ((State.runCommand_run hq _).trans (State.injectCommand_pushes hq running checked (by simpa using room) _))

end

/-- A command that changes the queues between the agents and completes. -/
theorem completedAs_complete_queues {s : State} {e : CmdEntry} {rest : List CmdEntry}
    (hq : s.cmd.queue = e :: rest) (q : Queues) (r : ResultCode) (v : Word) :
    CompletedAs s (State.complete { s with q := q } r v) e rest r v ∧
      SameBuf s (State.complete { s with q := q } r v) ∧ (State.complete { s with q := q } r v).q = q := by
  have completed := completedAs_complete s (e := e) rfl rest q s.buf r v
  rw [← hq] at completed
  exact ⟨completed, State.complete_bufByte _ r v, State.complete_q _ r v⟩

/-! ## A DRAIN at the head of CMDQ (46_control.md R441) -/

theorem drainAtHead_cons {e : CmdEntry} {rest : List CmdEntry} :
    DrainAtHead (e :: rest) ↔ decode e.desc = .instr .drain :=
  ⟨fun ⟨_, _, h, hd⟩ => (List.cons.inj h).1 ▸ hd, fun hd => ⟨e, rest, rfl, hd⟩⟩

theorem not_drainAtHead_nil : ¬ DrainAtHead [] := nofun

/-- From `s` to `t` the counts of a waiting DRAIN stay, no DRAIN becomes the head of CMDQ, and neither MSCQ nor SFQ
loses an entry. -/
structure DrainKept (s t : State) : Prop where
  drainM : t.cmd.drainM = s.cmd.drainM
  drainS : t.cmd.drainS = s.cmd.drainS
  head : DrainAtHead t.cmd.queue → DrainAtHead s.cmd.queue
  mscq : s.q.mscq.length ≤ t.q.mscq.length
  sfq : s.q.sfq.length ≤ t.q.sfq.length

namespace DrainKept

variable {s t u : State}

/-- CMD, MSCQ and SFQ are as they were. -/
theorem same (h : (t.cmd, t.q.mscq, t.q.sfq) = (s.cmd, s.q.mscq, s.q.sfq)) : DrainKept s t := by
  obtain ⟨hc, hq⟩ := Prod.mk.inj h
  obtain ⟨hm, hs⟩ := Prod.mk.inj hq
  exact ⟨by rw [hc], by rw [hc], by rw [hc]; exact id, by rw [hm], by rw [hs]⟩

theorem trans (h : DrainKept s t) (k : DrainKept t u) : DrainKept s u :=
  ⟨k.drainM.trans h.drainM, k.drainS.trans h.drainS, h.head ∘ k.head, h.mscq.trans k.mscq, h.sfq.trans k.sfq⟩

/-- What is counted of MSCQ and SFQ is still there. -/
theorem counted (k : DrainKept s t) (h : DrainCounted s) : DrainCounted t := fun head => by
  obtain ⟨hm, hs⟩ := h (k.head head)
  rw [k.drainM, k.drainS]
  exact ⟨hm.trans k.mscq, hs.trans k.sfq⟩

theorem setDemod (s : State) (m : DemodState) : DrainKept s { s with demod := m } := same rfl

theorem setSfa (s : State) (k : SfaState) : DrainKept s { s with sfa := k } := same rfl

/-! ### ACQ and SYNC -/

theorem acqStep (s : State) : DrainKept s s.acqStep := by
  unfold State.acqStep
  split
  · exact same rfl
  · split <;> exact same rfl

theorem symbolDone (s : State) : DrainKept s s.symbolDone := by
  rw [s.symbolDone_eq_symbolEnded]
  unfold symbolEnded
  dsimp only
  split <;> exact same rfl

theorem captureDone (s : State) : DrainKept s s.captureDone := by
  unfold State.captureDone
  split
  · exact s.peakFailed_eq ▸ same rfl
  · split
    · split
      · exact same rfl
      · exact (same rfl : DrainKept s (s.startSymbols _)).trans (symbolDone _)
    · exact same rfl

theorem consume (s : State) (y : Cx Num) : DrainKept s (s.consume y) := by
  unfold State.consume State.symbolSample
  dsimp only
  split
  · exact same rfl
  · split <;> exact same rfl
  · exact same rfl
  · exact same rfl
  · exact same rfl
  · split
    · split <;> exact same rfl
    · split
      · exact (same rfl : DrainKept s (s.usefulSample y)).trans (symbolDone _)
      · exact same rfl

theorem sampleStep (s : State) : DrainKept s s.sampleStep := by
  unfold State.sampleStep
  split
  · exact same rfl
  · split
    · exact same rfl
    · next x rest _ => exact (same rfl : DrainKept s (s.takeSample x rest)).trans (consume _ _)

theorem syncTimeoutStep (s : State) : DrainKept s s.syncTimeoutStep := by
  rw [s.syncTimeoutStep_eq_timedOut]
  exact same rfl

theorem syncStep (s : State) : DrainKept s s.syncStep := by
  unfold State.syncStep
  split
  · exact same rfl
  · split
    · exact same rfl
    · exact sampleStep s
    · split
      · exact same rfl
      · split
        · exact syncTimeoutStep s
        · exact sampleStep s
    · split
      · exact same rfl
      · split
        · exact syncTimeoutStep s
        · exact sampleStep s
    · split
      · exact sampleStep s
      · exact captureDone s
    · exact sampleStep s

theorem nosampleStep (s : State) : DrainKept s s.nosampleStep := by
  by_cases h : s.nosampleEnabled = true
  · rw [State.nosampleStep_enabled h]
    exact same rfl
  · rw [State.nosampleStep_disabled h]
    exact same rfl

/-! ### DEMOD, which only adds to MSCQ -/

theorem pushMscq (s : State) (x : BitVec 16 × List SoftBit) :
    DrainKept s { s with q := { s.q with mscq := s.q.mscq ++ [x] } } :=
  { (same rfl : DrainKept s s) with mscq := by simp }

theorem pushSfq (s : State) (x : BitVec 16 × List Byte) :
    DrainKept s { s with q := { s.q with sfq := s.q.sfq ++ [x] } } :=
  { (same rfl : DrainKept s s) with sfq := by simp }

theorem ficSymbol (s : State) (f : Word) (l : Nat) (b : List SoftBit) : DrainKept s (s.ficSymbol f l b) := by
  unfold State.ficSymbol State.ficEmit
  dsimp only
  split
  · split <;> exact same rfl
  · exact same rfl

theorem cifSymbol (s : State) (a : Selection) (b : List SoftBit) : DrainKept s (s.cifSymbol a b) := by
  unfold State.cifSymbol State.cifEmit
  dsimp only
  split
  · split
    · exact (pushMscq s _).trans (same rfl)
    · exact same rfl
  · exact same rfl

theorem demodEntry (s : State) (e : SymEntry) : DrainKept s (s.demodEntry e) := by
  cases e with
  | abort f => exact same rfl
  | symbol f l x =>
    show DrainKept s (s.demodSymbol f l x)
    unfold State.demodSymbol
    dsimp only
    split
    · exact same rfl
    · split
      · exact same rfl
      · split
        · exact (setDemod s _).trans (ficSymbol _ f l _)
        · exact (setDemod s _).trans (cifSymbol _ _ _)

theorem demodStep (s : State) : DrainKept s s.demodStep := by
  unfold State.demodStep
  split
  · exact same rfl
  · split
    · exact same rfl
    · split
      · exact same rfl
      · next e rest _ _ =>
        exact (same rfl : DrainKept s { s with q := { s.q with symq := rest } }).trans (demodEntry _ _)

/-! ### SFA, once it has popped an entry -/

theorem raiseIf (s : State) (b : Bool) (c : Event) (info : Word) : DrainKept s (s.raiseIf b c info) := by
  cases b <;> exact same rfl

theorem emitRecord (s : State) (record : List Word) (ready : Event) (info : Word) :
    DrainKept s (s.emitRecord record ready info) := by
  unfold State.emitRecord
  split <;> exact same rfl

theorem processAu (s : State) (w : List Byte) (cw h i start stop : Nat) :
    DrainKept s (s.processAu w cw h i start stop) := by
  unfold State.processAu
  dsimp only
  split
  · exact same rfl
  · split
    · exact (same rfl : DrainKept s (s.count .auOk 1)).trans (emitRecord _ _ _ _)
    · exact same rfl

theorem processAus (s : State) (w : List Byte) (cw h : Nat) (st : Nat → Nat) (is : List Nat) :
    DrainKept s (s.processAus w cw h st is) := by
  induction is generalizing s with
  | nil => exact same rfl
  | cons i is ih => exact (processAu s w cw h i _ _).trans (ih _)

theorem enterSynced (s : State) : DrainKept s s.enterSynced :=
  (setSfa s _).trans (raiseIf _ _ _ _)

theorem cacheFormat (s : State) (w : List Byte) : DrainKept s (s.cacheFormat w) := by
  unfold State.cacheFormat
  split
  · exact same rfl
  · exact (setSfa s _).trans (emitRecord _ _ _ _)

theorem passWindow (s : State) (w : List Byte) (cw nunc : Nat) : DrainKept s (s.passWindow w cw nunc) := by
  unfold State.passWindow
  split
  · exact enterSynced s
  · have counted : DrainKept s (s.enterSynced.count .sfOk 1) := (enterSynced s).trans (same rfl)
    exact (counted.trans (cacheFormat _ w)).trans (processAus _ _ _ _ _ _)

theorem failWindow (s : State) (fire : Bool) : DrainKept s (s.failWindow fire) := by
  have fails : DrainKept s (s.countFireFail fire) := by
    cases fire <;> exact same rfl
  exact (fails.trans (raiseIf _ (s.sfa.phase == .synced) .sfLost 0)).trans (same rfl)

theorem countRsWindow (s : State) (r : RsWindow) : DrainKept s (s.countRsWindow r) :=
  ((same rfl : DrainKept s (s.countSymbols r)).trans (raiseIf _ _ _ _)).trans (raiseIf _ _ _ _)

theorem attemptWindow (s : State) (cw : Nat) : DrainKept s (s.attemptWindow cw) := by
  unfold State.attemptWindow
  dsimp only
  split
  · exact (countRsWindow s _).trans (passWindow _ _ _ _)
  · exact (countRsWindow s _).trans (failWindow _ _)

theorem assemble (s : State) (bytes : List Byte) (cw : Nat) : DrainKept s (s.assemble bytes cw) := by
  unfold State.assemble
  split
  · exact (same rfl : DrainKept s (s.storePayload bytes)).trans (attemptWindow _ cw)
  · exact same rfl

/-! ### CMD and the host -/

/-- A host write to BUF changes no descriptor. -/
theorem noteRace (s : State) (a n : Nat) : DrainKept s (s.noteRace a n) := by
  refine { (same rfl : DrainKept s s) with head := fun head => ?_ }
  cases hq : s.cmd.queue with
  | nil => exact absurd (s.noteRace_nil hq a n ▸ head) not_drainAtHead_nil
  | cons e rest =>
    rw [State.noteRace_cons hq, drainAtHead_cons] at head
    exact drainAtHead_cons.mpr head

/-- The write of a command changes no descriptor. -/
theorem cmdWrite (s : State) (a : Nat) (bs : List Byte) : DrainKept s (s.cmdWrite a bs) := by
  refine { (same rfl : DrainKept s s) with head := fun head => ?_ }
  rw [State.cmdWrite_cmd] at head
  dsimp only at head
  cases hq : s.cmd.queue with
  | nil =>
    rw [hq] at head
    exact absurd head not_drainAtHead_nil
  | cons e rest =>
    rw [hq, List.map_cons, drainAtHead_cons] at head
    exact drainAtHead_cons.mpr head

/-- A command queued behind another does not become the head. -/
theorem enqueued (busy : s.cmd.queue ≠ []) : DrainKept s s.enqueued := by
  refine { (same rfl : DrainKept s s) with head := fun head => ?_ }
  obtain ⟨e, rest, hq⟩ := List.exists_cons_of_ne_nil busy
  have queued : s.enqueued.cmd.queue = e :: (rest ++ [s.stagedEntry]) := by
    rw [State.enqueued, hq]
    rfl
  rw [queued, drainAtHead_cons] at head
  rw [hq]
  exact drainAtHead_cons.mpr head

theorem csrReadEffect (s : State) (r : Csr) : DrainKept s (s.csrReadEffect r) := by
  unfold State.csrReadEffect
  split <;> exact same rfl

theorem hostRead (s after : State) (a : HostAddr) (w : Width) : DrainKept s (s.hostRead after a w) := by
  obtain ⟨r, v, e⟩ | e := s.hostRead_cases after a w
  · exact e ▸ (csrReadEffect s r).trans (same rfl)
  · exact e ▸ same rfl

theorem pushIq (s : State) (bs : List Byte) : DrainKept s (s.pushIq bs) := by
  unfold State.pushIq
  split <;> exact same rfl

/-- The end of a turn empties IQF at most (46_control.md R452). -/
theorem settle (s : State) : DrainKept s s.settle := by
  obtain e | ⟨-, -, e⟩ := s.settle_cases <;> rw [e]
  · exact same rfl
  · exact same rfl

end DrainKept

/-! ## What a turn does to a DRAIN (46_control.md R441) -/

/-- What a turn of another agent than MSC and SFA can do to a DRAIN: leave it as it is, or complete the head of CMDQ,
empty CMDQ or put a command into an empty one, the entries to wait for being recorded. -/
def DrainEffect (s t : State) : Prop :=
  DrainKept s t ∨ (DrainCounted t ∧ (s.cmd.queue = [] ∨ t.cmd.queue.length < s.cmd.queue.length))

theorem noteDrain_drainCounted (s : State) : DrainCounted s.noteDrain := fun head => by
  rw [State.noteDrain_cmd_queue] at head
  rw [State.noteDrain_of_drainAtHead head]
  exact ⟨Nat.le_refl _, Nat.le_refl _⟩

namespace DrainEffect

variable {s t u : State}

theorem counted (k : DrainEffect s t) (h : DrainCounted s) : DrainCounted t :=
  k.elim (·.counted h) And.left

/-- With a DRAIN at the head that does not leave CMDQ, the counts stay. -/
theorem counts (k : DrainEffect s t) (head : DrainAtHead s.cmd.queue)
    (stays : s.cmd.queue.length ≤ t.cmd.queue.length) :
    t.cmd.drainM = s.cmd.drainM ∧ t.cmd.drainS = s.cmd.drainS := by
  obtain kept | ⟨-, empty | shorter⟩ := k
  · exact ⟨kept.drainM, kept.drainS⟩
  · exact absurd (empty ▸ head) not_drainAtHead_nil
  · exact absurd stays (Nat.not_le.mpr shorter)

/-- A CMDQ emptied holds no DRAIN. -/
theorem emptied (h : t.cmd.queue = []) : DrainEffect s t := by
  refine .inr ⟨fun head => absurd (h ▸ head) not_drainAtHead_nil, ?_⟩
  rw [h]
  exact (Nat.eq_zero_or_pos _).imp_left List.eq_nil_of_length_eq_zero

/-- A command that has done its work, keeping CMDQ, and completes. -/
theorem complete (k : DrainKept s u) (hlen : u.cmd.queue.length = s.cmd.queue.length) (r : ResultCode) (v : Word) :
    DrainEffect s (u.complete r v) := by
  cases hq : u.cmd.queue with
  | nil =>
    rw [State.complete_nil hq]
    exact .inl k
  | cons e rest =>
    refine .inr ⟨?_, .inr ?_⟩
    · rw [State.complete_cons hq]
      exact noteDrain_drainCounted _
    · rw [State.complete_cmd_queue, ← hlen, hq]
      exact Nat.lt_succ_self _

theorem command (h : CommandEffect s t) : DrainEffect s t := by
  cases h with
  | nothing => exact .inl (.same rfl)
  | complete r v => exact complete (.same rfl) rfl r v
  | write a bs r v _ => exact complete (.cmdWrite s a bs) (List.length_map _) r v
  | hold a _ => exact .inl { (.same rfl : DrainKept s s) with }
  | pushMscq x r v _ => exact complete (.pushMscq s x) rfl r v
  | pushSfq x r v _ => exact complete (.pushSfq s x) rfl r v

theorem cmdGo (s : State) : DrainEffect s s.cmdGo := by
  obtain room | full := Nat.lt_or_ge s.cmd.queue.length cmdqDepth
  · rw [State.cmdGo_room room]
    split
    · next empty => exact .inr ⟨noteDrain_drainCounted _, .inl (List.isEmpty_iff.mp empty)⟩
    · next busy => exact .inl (.enqueued (by simpa using busy))
  · rw [State.cmdGo_full full]
    exact .inl { (.same rfl : DrainKept s s) with }

theorem csrWrite (s : State) (v : Word) (r : Csr) : DrainEffect s (s.csrWrite v r) := by
  cases r with
  | ctrl =>
    obtain ⟨ctl, ev, e⟩ := s.writeCtrl_cases v
    show DrainEffect s (s.writeCtrl v)
    rw [e]
    cases v.getLsbD 3
    · exact .inl (.same rfl)
    · exact emptied rfl
  | subchCommit =>
    rw [State.csrWrite, s.commit_frame]
    exact .inl (.same rfl)
  | iqPush32 => exact .inl (.pushIq s _)
  | iqPush8 => exact .inl (.pushIq s _)
  | cmdGo => exact cmdGo s
  | cmdW0 | cmdW1 | cmdW2 | cmdW3 | cmdStatus => exact .inl { (.same rfl : DrainKept s s) with }
  | _ => exact .inl (.same rfl)

theorem hostWrite (s : State) (a : HostAddr) (w : Width) (v : Word) : DrainEffect s (s.hostWrite a w v) := by
  obtain ⟨r, -, -, e⟩ | ⟨o, -, e⟩ | e | e := s.hostWrite_cases a w v <;> rw [e]
  · exact csrWrite s v r
  · exact .inl ((DrainKept.noteRace s o _).trans (.same rfl))
  · exact .inl (.same rfl)
  · exact .inl (.same rfl)

theorem runTurn {v : Turn} (h : runTurn v s = .next t) (hm : v ≠ .msc) (hs : v ≠ .sfa) : DrainEffect s t := by
  cases v with
  | acq => exact Host.Outcome.next.inj h ▸ .inl (.acqStep s)
  | sync => exact Host.Outcome.next.inj h ▸ .inl (.syncStep s)
  | nosample => exact Host.Outcome.next.inj h ▸ .inl (.nosampleStep s)
  | demod => exact Host.Outcome.next.inj h ▸ .inl (.demodStep s)
  | msc => exact absurd rfl hm
  | sfa => exact absurd rfl hs
  | hardwareReset => exact Host.Outcome.next.inj h ▸ emptied rfl
  | cmd =>
    obtain ⟨t', e, effect⟩ := cmdStep_effect s
    obtain rfl : t' = t := Host.Outcome.next.inj (e.symm.trans h)
    exact command effect
  | host x =>
    obtain rfl := Host.Outcome.next.inj h
    cases x with
    | read a w => exact .inl (.hostRead s s.afterCmd a w)
    | write a w v => exact hostWrite s a w v

end DrainEffect

/-! ## The pops of MSC and SFA (46_control.md R441) -/

/-- A fragment accepted leaves MSCQ, and a payload made of it joins SFQ. -/
theorem acceptFragment_drainCounted {s : State} (h : DrainCounted s) {x : BitVec 16 × List SoftBit}
    {rest : List (BitVec 16 × List SoftBit)} (hq : s.q.mscq = x :: rest) (m : MscState)
    (payload : List (BitVec 16 × List Byte)) : DrainCounted (s.acceptFragment rest m payload) := fun head => by
  obtain ⟨hm, hs⟩ := h head
  rw [hq, List.length_cons] at hm
  refine ⟨Nat.sub_le_of_le_add hm, ?_⟩
  show (if 0 < s.cmd.drainM && !payload.isEmpty then s.cmd.drainS + 1 else s.cmd.drainS) ≤
    (s.q.sfq ++ payload).length
  rw [List.length_append]
  cases payload with
  | nil => simpa using hs
  | cons p ps =>
    rw [List.length_cons]
    split <;> omega

/-- MSC moves one of the entries counted from MSCQ to SFQ, or drops it. -/
theorem mscStep_drainCounted {s : State} (h : DrainCounted s) : DrainCounted s.mscStep := by
  unfold State.mscStep
  split
  · exact h
  · split
    · exact h
    · next gen frag rest hq =>
      dsimp only
      split
      · rw [State.popMscq_discarded]
        intro head
        obtain ⟨hm, hs⟩ := h head
        rw [hq, List.length_cons] at hm
        exact ⟨Nat.sub_le_of_le_add hm, hs⟩
      · exact acceptFragment_drainCounted h hq _ _

/-- SFA pops one of the entries counted from SFQ. -/
theorem sfaStep_drainCounted {s : State} (h : DrainCounted s) : DrainCounted s.sfaStep := by
  unfold State.sfaStep
  split
  · exact h
  · split
    · exact h
    · next gen bytes rest hq =>
      have popped : DrainCounted (s.popSfq rest) := fun head => by
        obtain ⟨hm, hs⟩ := h head
        rw [hq, List.length_cons] at hs
        exact ⟨hm, Nat.sub_le_of_le_add hs⟩
      split
      · exact popped
      · have adopted : DrainKept (s.popSfq rest) ((s.popSfq rest).adoptSfaGen gen) := by
          rw [State.adoptSfaGen_eq]
          exact .same rfl
        exact (adopted.trans (.assemble _ bytes _)).counted popped

/-- Every turn keeps what a waiting DRAIN counts inside MSCQ and SFQ. -/
theorem runTurn_drainCounted {s t : State} {u : Turn} (h : DrainCounted s) (e : runTurn u s = .next t) :
    DrainCounted t := by
  by_cases hm : u = .msc
  · subst hm
    exact Host.Outcome.next.inj e ▸ mscStep_drainCounted h
  · by_cases hs : u = .sfa
    · subst hs
      exact Host.Outcome.next.inj e ▸ sfaStep_drainCounted h
    · exact (DrainEffect.runTurn e hm hs).counted h

end Sys2Proof.Machine

namespace Sys2Proof.Claims

open Sys2Proof.Machine

/-- Settles O8: `NOP` has no operand to check. -/
theorem nopCompletesOk : Obligations.NopCompletesOk := by
  intro s e rest hq
  exact ⟨_, exec_nop (by simp [hq]), completedOnly_complete hq .ok 0⟩

/-- Settles O18, for each of the two: past its checks, with room and no stop, it pushes and completes. -/
theorem injectingCommandsPush : Obligations.InjectingCommandsPush := by
  intro s e rest src a hq running
  have head : s.cmd.queue ≠ [] := by simp [hq]
  refine ⟨fun checked room => ?_, fun checked room => ?_⟩
  · exact ⟨_, exec_injmsc_pushes head running checked room, completedAs_complete_queues hq _ _ _⟩
  · exact ⟨_, exec_injsf_pushes head running checked room, completedAs_complete_queues hq _ _ _⟩

/-- Settles O19: the two ends of DRAIN, that no turn but one of MSC or SFA moves its counts while it stays, and that
every turn keeps what it counts inside the queues. -/
theorem drainCompletesWhenItsEntriesAreDone : Obligations.DrainCompletesWhenItsEntriesAreDone := by
  refine ⟨fun s e rest hq => ?_, fun s t h head stays hm hs => ?_, fun s t h counted => ?_⟩
  · have busy : s.cmd.queue ≠ [] := by simp [hq]
    exact ⟨fun done => ⟨_, exec_drain_done busy done, completedOnly_complete hq .ok 0⟩,
      fun left stopped => ⟨_, exec_drain_aborted busy left stopped, completedOnly_complete hq .aborted 0⟩⟩
  · obtain ⟨u, hu, rfl⟩ := runTurn_of_step h
    rw [State.settle_cmd] at stays ⊢
    exact (DrainEffect.runTurn hu hm hs).counts head stays
  · obtain ⟨u, hu, rfl⟩ := runTurn_of_step h
    have begun : DrainCounted s.beginTurn := counted
    exact (DrainKept.settle u).counted (runTurn_drainCounted begun hu)

end Sys2Proof.Claims
end

section
/-! SUPPORT. That no error stops a step, the events and the interrupt line, and the modes after reset
(60_exceptions.md R470–R475; 70_reset_and_hazards.md R513). -/

namespace Sys2Proof.Machine

open Claims

/-! ## Events (60_exceptions.md R470, R473) -/

theorem mem_eventTable (c : Event) : (c, c.code, c.isError) ∈ eventTable := by
  cases c <;> decide

/-- Each row of the table gives its event the model's code and class. -/
theorem row_of_mem_eventTable : ∀ x ∈ eventTable, x.2 = (x.1.code, x.1.isError) := by
  decide

/-- A word is nonzero when one of its bits is set. -/
theorem bitVec_ne_zero_iff {w : Nat} {x : BitVec w} : x ≠ 0 ↔ ∃ i, i < w ∧ x.getLsbD i = true := by
  refine BitVec.zero_iff_eq_false.not.trans (not_forall.trans ?_)
  refine exists_congr fun i => ?_
  rw [Bool.not_eq_false]
  exact ⟨fun set => ⟨BitVec.lt_of_getLsbD set, set⟩, fun ⟨_, set⟩ => set⟩

/-- The interrupt line (60_exceptions.md R473). -/
theorem State.irq_iff (s : State) : s.irq = true ↔
    s.ctl.irqEn = true ∧ ∃ c, c < 25 ∧ s.ev.irqStatus.getLsbD c = true ∧ s.ev.irqEnable.getLsbD c = true := by
  simp only [State.irq, Bool.and_eq_true, bne_iff_ne, bitVec_ne_zero_iff, BitVec.getLsbD_and]

/-! ## No selection (40_sync_ofdm.md R230, R242) -/

theorem State.ficSymbol_mscq (s : State) (f : Word) (l : Nat) (b : List SoftBit) :
    (s.ficSymbol f l b).q.mscq = s.q.mscq := by
  by_cases hl : l = 4
  · rw [hl, State.ficSymbol_last, State.ficEmit_eq]
    split <;> rfl
  · rw [State.ficSymbol_more hl]

/-- The end of a CIF pushes a fragment of a valid selection only. -/
theorem State.cifSymbol_mscq_unselected (s : State) {a : Selection} (hv : a.valid = false) (b : List SoftBit) :
    (s.cifSymbol a b).q.mscq = s.q.mscq := by
  by_cases last : s.demod.cif.length + 1 = 18
  · rw [State.cifSymbol_unselected b last hv]
  · rw [State.cifSymbol_more a b last]

theorem State.demodEntry_mscq_unselected {s : State} (hv : s.sel.act.valid = false) (e : SymEntry) :
    (s.demodEntry e).q.mscq = s.q.mscq := by
  cases e with
  | abort f => rfl
  | symbol f l x =>
    change (s.demodSymbol f l x).q.mscq = s.q.mscq
    unfold State.demodSymbol
    dsimp only
    split
    · rfl
    · split
      · rfl
      · split
        · exact State.ficSymbol_mscq _ f l _
        · exact State.cifSymbol_mscq_unselected _ hv _

theorem State.demodStep_mscq_unselected {s : State} (hv : s.sel.act.valid = false) :
    s.demodStep.q.mscq = s.q.mscq := by
  unfold State.demodStep
  split
  · rfl
  · split
    · rfl
    · next e rest _ =>
      split
      · rfl
      · exact State.demodEntry_mscq_unselected (s := { s with q := { s.q with symq := rest } }) hv e

end Sys2Proof.Machine

namespace Sys2Proof.Claims

open Sys2Proof.Machine

theorem CompletedOnly.lastResult {s t : State} {e : CmdEntry} {rest : List CmdEntry} {r : ResultCode} {v : Word}
    (h : CompletedOnly s t e rest r v) : t.cmd.lastResult = r := by
  obtain ⟨completed, -, -⟩ := h
  rw [completed.cmd]

/-- Settles O7: every turn answers a next state, a command included, and a step ends what its turn answers. -/
theorem noStepStops : Obligations.NoStepStops := by
  intro s
  obtain ⟨t, turn⟩ := runTurn_next s.nextTurn s.beginTurn
  exact ⟨t.settle, step_of_runTurn turn⟩

/-- Settles O32: the rows of the table are the model's codes and classes, and `raise` records an event. -/
theorem eventsAndTheInterruptLine : Obligations.EventsAndTheInterruptLine := by
  refine ⟨fun c => ⟨_, mem_eventTable c, rfl⟩, fun x hx s info => ⟨?_, rfl⟩, State.irq_iff, fun s v => ⟨?_, ?_⟩⟩
  · rw [row_of_mem_eventTable x hx]
    exact recorded_raise rfl x.1 info
  · rw [BitVec.setWidth_eq_extractLsb' (by decide)]
    exact s.hostWrite_csr (r := .irqStatus) rfl v
  · rw [BitVec.setWidth_eq_extractLsb' (by decide)]
    exact s.hostWrite_csr (r := .irqEnable) rfl v

/-- Settles O43: with no selection DEMOD pushes no fragment and an injecting command ends with `NO_SUBCH`; the
rest is read off the reset state. -/
theorem modesAfterReset : Obligations.ModesAfterReset := by
  refine ⟨rfl, ?_, rfl, rfl, fun s hv => State.demodStep_mscq_unselected hv, fun s src hv first busy => ?_,
    rfl, rfl, rfl, rfl, rfl, rfl, rfl, rfl, rfl⟩
  · rw [State.syncStep_idle ⟨rfl, rfl, rfl⟩ rfl]
  · obtain ⟨e, rest, hq⟩ := List.exists_cons_of_ne_nil busy
    obtain ⟨noSubch, -⟩ := injectingCommandsEndWithoutPushing s e rest src hq
    obtain ⟨⟨t, injmsc, msc⟩, u, injsf, sf⟩ := noSubch first hv
    exact ⟨⟨t, injmsc, msc.lastResult⟩, u, injsf, sf.lastResult⟩

end Sys2Proof.Claims
end
